-- ==== Sys2Proof/Word.lean ====
section
/-! DEFINITION. The value types of 00_scope.md R8: every value of the core is an unsigned number of fixed width. -/

namespace Sys2Proof

/-- `u8`: registers, the delay timer, one memory location (R8, R21, R28, R60). -/
abbrev Byte := BitVec 8

/-- `u16`: the program counter, the index register, stack entries, the instruction word (R8, R24, R25, R26, R80). -/
abbrev Word := BitVec 16

/-- `u4`: a register index or a sprite height (R8, R81). -/
abbrev Nibble := BitVec 4

/-- `u12`: the address field `nnn` (R8, R81). -/
abbrev Addr := BitVec 12

end Sys2Proof
end

