-- ==== Sys2Proof/Syntax.lean ====
section
/-! DEFINITION. The instructions: one constructor per row of the opcode map (30_encoding.md R84, R89), with the fields that
row uses (R81), and the assembler text of R88. -/

namespace Sys2Proof

/-- The 34 instructions in the order of R84. A constructor carries the fields its row uses; a don't-care digit (R85) is no
operand. `x` and `y` are register indexes, `kk` an 8-bit immediate, `n` a sprite height, `nnn` a 12-bit address (R82). -/
inductive Instr where
  /-- `CLS`, word 00E0 (R181) -/
  | cls
  /-- `RET`, word 00EE (R111) -/
  | ret
  /-- `JP nnn`, word 1nnn (R112) -/
  | jp (nnn : Addr)
  /-- `CALL nnn`, word 2nnn (R113) -/
  | call (nnn : Addr)
  /-- `SE Vx, kk`, word 3xkk (R114) -/
  | seImm (x : Nibble) (kk : Byte)
  /-- `SNE Vx, kk`, word 4xkk (R115) -/
  | sneImm (x : Nibble) (kk : Byte)
  /-- `SE Vx, Vy`, word 5xy- (R116) -/
  | seReg (x y : Nibble)
  /-- `LD Vx, kk`, word 6xkk (R130) -/
  | ldImm (x : Nibble) (kk : Byte)
  /-- `ADD Vx, kk`, word 7xkk (R131) -/
  | addImm (x : Nibble) (kk : Byte)
  /-- `LD Vx, Vy`, word 8xy0 (R132) -/
  | ldReg (x y : Nibble)
  /-- `OR Vx, Vy`, word 8xy1 (R133) -/
  | orReg (x y : Nibble)
  /-- `AND Vx, Vy`, word 8xy2 (R134) -/
  | andReg (x y : Nibble)
  /-- `XOR Vx, Vy`, word 8xy3 (R135) -/
  | xorReg (x y : Nibble)
  /-- `ADD Vx, Vy`, word 8xy4 (R136) -/
  | addReg (x y : Nibble)
  /-- `SUB Vx, Vy`, word 8xy5 (R137) -/
  | subReg (x y : Nibble)
  /-- `SHR Vx`, word 8x-6 (R138) -/
  | shr (x : Nibble)
  /-- `SUBN Vx, Vy`, word 8xy7 (R139) -/
  | subnReg (x y : Nibble)
  /-- `SHL Vx`, word 8x-E (R140) -/
  | shl (x : Nibble)
  /-- `SNE Vx, Vy`, word 9xy- (R117) -/
  | sneReg (x y : Nibble)
  /-- `LD I, nnn`, word Annn (R160) -/
  | ldI (nnn : Addr)
  /-- `JP V0, nnn`, word Bnnn (R118) -/
  | jpV0 (nnn : Addr)
  /-- `RND Vx, kk`, word Cxkk (R141) -/
  | rnd (x : Nibble) (kk : Byte)
  /-- `DRW Vx, Vy, n`, word Dxyn (R182) -/
  | drw (x y : Nibble) (n : Nibble)
  /-- `SKP Vx`, word Ex9E (R200) -/
  | skp (x : Nibble)
  /-- `SKNP Vx`, word ExA1 (R201) -/
  | sknp (x : Nibble)
  /-- `LD Vx, DT`, word Fx07 (R202) -/
  | ldFromDT (x : Nibble)
  /-- `LD Vx, K`, word Fx0A (R203) -/
  | ldKey (x : Nibble)
  /-- `LD DT, Vx`, word Fx15 (R204) -/
  | ldDT (x : Nibble)
  /-- `LD ST, Vx`, word Fx18 (R205) -/
  | ldST (x : Nibble)
  /-- `ADD I, Vx`, word Fx1E (R161) -/
  | addI (x : Nibble)
  /-- `LD F, Vx`, word Fx29 (R162) -/
  | ldF (x : Nibble)
  /-- `LD B, Vx`, word Fx33 (R163) -/
  | ldB (x : Nibble)
  /-- `LD [I], Vx`, word Fx55 (R164) -/
  | storeRegs (x : Nibble)
  /-- `LD Vx, [I]`, word Fx65 (R165) -/
  | loadRegs (x : Nibble)
  deriving DecidableEq, Repr

/-- The digit characters of a hexadecimal number, most significant first. -/
def hexDigit (d : Nat) : Char := "0123456789ABCDEF".toList.getD d '0'

/-- A register's assembler name, V0 to VF (R88). -/
def asmReg (x : Nibble) : String := "V" ++ (hexDigit x.toNat).toString

/-- An immediate or a sprite height as a hexadecimal number (R88). -/
def asmByte (k : Byte) : String :=
  "0x" ++ String.ofList [hexDigit (k.toNat / 16), hexDigit (k.toNat % 16)]

/-- An address as a hexadecimal number, for example `0x20C` (R88). -/
def asmAddr (a : Addr) : String :=
  "0x" ++ String.ofList [hexDigit (a.toNat / 256), hexDigit (a.toNat / 16 % 16), hexDigit (a.toNat % 16)]

/-- `MNEMONIC operand, operand` (R88). The words are normative, not this text (DESIGN CHOICE for the digits' form, safe:
log entry 18). -/
def Instr.asm : Instr → String
  | .cls => "CLS"
  | .ret => "RET"
  | .jp nnn => "JP " ++ asmAddr nnn
  | .call nnn => "CALL " ++ asmAddr nnn
  | .seImm x kk => "SE " ++ asmReg x ++ ", " ++ asmByte kk
  | .sneImm x kk => "SNE " ++ asmReg x ++ ", " ++ asmByte kk
  | .seReg x y => "SE " ++ asmReg x ++ ", " ++ asmReg y
  | .ldImm x kk => "LD " ++ asmReg x ++ ", " ++ asmByte kk
  | .addImm x kk => "ADD " ++ asmReg x ++ ", " ++ asmByte kk
  | .ldReg x y => "LD " ++ asmReg x ++ ", " ++ asmReg y
  | .orReg x y => "OR " ++ asmReg x ++ ", " ++ asmReg y
  | .andReg x y => "AND " ++ asmReg x ++ ", " ++ asmReg y
  | .xorReg x y => "XOR " ++ asmReg x ++ ", " ++ asmReg y
  | .addReg x y => "ADD " ++ asmReg x ++ ", " ++ asmReg y
  | .subReg x y => "SUB " ++ asmReg x ++ ", " ++ asmReg y
  | .shr x => "SHR " ++ asmReg x
  | .subnReg x y => "SUBN " ++ asmReg x ++ ", " ++ asmReg y
  | .shl x => "SHL " ++ asmReg x
  | .sneReg x y => "SNE " ++ asmReg x ++ ", " ++ asmReg y
  | .ldI nnn => "LD I, " ++ asmAddr nnn
  | .jpV0 nnn => "JP V0, " ++ asmAddr nnn
  | .rnd x kk => "RND " ++ asmReg x ++ ", " ++ asmByte kk
  | .drw x y n => "DRW " ++ asmReg x ++ ", " ++ asmReg y ++ ", " ++ asmByte (n.setWidth 8)
  | .skp x => "SKP " ++ asmReg x
  | .sknp x => "SKNP " ++ asmReg x
  | .ldFromDT x => "LD " ++ asmReg x ++ ", DT"
  | .ldKey x => "LD " ++ asmReg x ++ ", K"
  | .ldDT x => "LD DT, " ++ asmReg x
  | .ldST x => "LD ST, " ++ asmReg x
  | .addI x => "ADD I, " ++ asmReg x
  | .ldF x => "LD F, " ++ asmReg x
  | .ldB x => "LD B, " ++ asmReg x
  | .storeRegs x => "LD [I], " ++ asmReg x
  | .loadRegs x => "LD " ++ asmReg x ++ ", [I]"

end Sys2Proof
end

