-- ==== Sys2Proof/Decode.lean ====
section
/-! DEFINITION. The decoder (30_encoding.md R80 to R89), then the encoder, both written from the opcode map of R84. -/

namespace Sys2Proof

/-! ### The fields of a word (R81). They are defined for every word, whatever its instruction. -/

/-- `op` = w[15:12], the first dispatch level (R81). -/
def fieldOp (w : Word) : Nibble := w.extractLsb' 12 4

/-- `x` = w[11:8] (R81). -/
def fieldX (w : Word) : Nibble := w.extractLsb' 8 4

/-- `y` = w[7:4] (R81). -/
def fieldY (w : Word) : Nibble := w.extractLsb' 4 4

/-- `n` = w[3:0] (R81). -/
def fieldN (w : Word) : Nibble := w.extractLsb' 0 4

/-- `kk` = w[7:0] (R81). -/
def fieldKK (w : Word) : Byte := w.extractLsb' 0 8

/-- `nnn` = w[11:0] (R81). -/
def fieldNNN (w : Word) : Addr := w.extractLsb' 0 12

/-- Why a word is an unknown encoding: the four cases of R86, by the group whose secondary field matched nothing. -/
inductive UnknownWord where
  /-- 0NNN other than 00E0 and 00EE, the SYS-style words -/
  | sysWord
  /-- 8xyn with n in 8 to D, or F -/
  | aluSecondary
  /-- Exkk with kk not 9E or A1 -/
  | keySecondary
  /-- Fxkk with kk none of 07, 0A, 15, 18, 1E, 29, 33, 55, 65 -/
  | miscSecondary
  deriving DecidableEq, Repr

/-- The decoder's answer, `Instr ⊎ {Unknown}` (R89). -/
inductive Decoded where
  /-- the word selects this instruction -/
  | instr (i : Instr)
  /-- the word selects no row of R84 (R86) -/
  | unknown (why : UnknownWord)
  deriving DecidableEq, Repr

/-- Group 0x0: the secondary field is the whole of `nnn` (R83, R89). -/
def decodeGroup0 (w : Word) : Decoded :=
  match (fieldNNN w).toNat with
  | 0x0E0 => .instr .cls
  | 0x0EE => .instr .ret
  | _ => .unknown .sysWord

/-- Group 0x8: the secondary field is `n` (R83, R89). -/
def decodeGroup8 (w : Word) : Decoded :=
  match (fieldN w).toNat with
  | 0x0 => .instr (.ldReg (fieldX w) (fieldY w))
  | 0x1 => .instr (.orReg (fieldX w) (fieldY w))
  | 0x2 => .instr (.andReg (fieldX w) (fieldY w))
  | 0x3 => .instr (.xorReg (fieldX w) (fieldY w))
  | 0x4 => .instr (.addReg (fieldX w) (fieldY w))
  | 0x5 => .instr (.subReg (fieldX w) (fieldY w))
  | 0x6 => .instr (.shr (fieldX w))
  | 0x7 => .instr (.subnReg (fieldX w) (fieldY w))
  | 0xE => .instr (.shl (fieldX w))
  | _ => .unknown .aluSecondary

/-- Group 0xE: the secondary field is `kk` (R83, R89). -/
def decodeGroupE (w : Word) : Decoded :=
  match (fieldKK w).toNat with
  | 0x9E => .instr (.skp (fieldX w))
  | 0xA1 => .instr (.sknp (fieldX w))
  | _ => .unknown .keySecondary

/-- Group 0xF: the secondary field is `kk` (R83, R89). -/
def decodeGroupF (w : Word) : Decoded :=
  match (fieldKK w).toNat with
  | 0x07 => .instr (.ldFromDT (fieldX w))
  | 0x0A => .instr (.ldKey (fieldX w))
  | 0x15 => .instr (.ldDT (fieldX w))
  | 0x18 => .instr (.ldST (fieldX w))
  | 0x1E => .instr (.addI (fieldX w))
  | 0x29 => .instr (.ldF (fieldX w))
  | 0x33 => .instr (.ldB (fieldX w))
  | 0x55 => .instr (.storeRegs (fieldX w))
  | 0x65 => .instr (.loadRegs (fieldX w))
  | _ => .unknown .miscSecondary

/-- The decoder of R89: "first on the top 4 bits of the opcode, then (for opcodes 0x0, 0x8, 0xE, 0xF) on a secondary
field" (R83). Total: it decides every word. -/
def decode (w : Word) : Decoded :=
  match (fieldOp w).toNat with
  | 0x0 => decodeGroup0 w
  | 0x1 => .instr (.jp (fieldNNN w))
  | 0x2 => .instr (.call (fieldNNN w))
  | 0x3 => .instr (.seImm (fieldX w) (fieldKK w))
  | 0x4 => .instr (.sneImm (fieldX w) (fieldKK w))
  | 0x5 => .instr (.seReg (fieldX w) (fieldY w))
  | 0x6 => .instr (.ldImm (fieldX w) (fieldKK w))
  | 0x7 => .instr (.addImm (fieldX w) (fieldKK w))
  | 0x8 => decodeGroup8 w
  | 0x9 => .instr (.sneReg (fieldX w) (fieldY w))
  | 0xA => .instr (.ldI (fieldNNN w))
  | 0xB => .instr (.jpV0 (fieldNNN w))
  | 0xC => .instr (.rnd (fieldX w) (fieldKK w))
  | 0xD => .instr (.drw (fieldX w) (fieldY w) (fieldN w))
  | 0xE => decodeGroupE w
  | _ => decodeGroupF w

/-- Two bytes as the hardware stores them, "the high byte at the lower address" (20_memory.md R63). -/
def wordOfBytes (hi lo : Byte) : Word := hi ++ lo

/-- The byte of a word at the lower address (R63). -/
def highByte (w : Word) : Byte := w.extractLsb' 8 8

/-- The byte of a word at the higher address (R63). -/
def lowByte (w : Word) : Byte := w.extractLsb' 0 8

/-- An instruction off the front of a byte string, with the rest: "it is always 2 bytes" (R80). None where fewer than two
bytes are left or the word is unknown. -/
def decodeBytes : List Byte → Option (Instr × List Byte)
  | hi :: lo :: rest =>
    match decode (wordOfBytes hi lo) with
    | .instr i => some (i, rest)
    | .unknown _ => none
  | _ => none

/-! ### The encoder -/

/-- The word of an instruction (R84). A don't-care digit of rows 7, 16, 18 and 19 (R85) is written 0 (DESIGN CHOICE, safe:
log entry 14). -/
def encode : Instr → Word
  | .cls => 0x00E0#16
  | .ret => 0x00EE#16
  | .jp nnn => 0x1#4 ++ nnn
  | .call nnn => 0x2#4 ++ nnn
  | .seImm x kk => 0x3#4 ++ x ++ kk
  | .sneImm x kk => 0x4#4 ++ x ++ kk
  | .seReg x y => 0x5#4 ++ x ++ y ++ 0x0#4
  | .ldImm x kk => 0x6#4 ++ x ++ kk
  | .addImm x kk => 0x7#4 ++ x ++ kk
  | .ldReg x y => 0x8#4 ++ x ++ y ++ 0x0#4
  | .orReg x y => 0x8#4 ++ x ++ y ++ 0x1#4
  | .andReg x y => 0x8#4 ++ x ++ y ++ 0x2#4
  | .xorReg x y => 0x8#4 ++ x ++ y ++ 0x3#4
  | .addReg x y => 0x8#4 ++ x ++ y ++ 0x4#4
  | .subReg x y => 0x8#4 ++ x ++ y ++ 0x5#4
  | .shr x => 0x8#4 ++ x ++ 0x0#4 ++ 0x6#4
  | .subnReg x y => 0x8#4 ++ x ++ y ++ 0x7#4
  | .shl x => 0x8#4 ++ x ++ 0x0#4 ++ 0xE#4
  | .sneReg x y => 0x9#4 ++ x ++ y ++ 0x0#4
  | .ldI nnn => 0xA#4 ++ nnn
  | .jpV0 nnn => 0xB#4 ++ nnn
  | .rnd x kk => 0xC#4 ++ x ++ kk
  | .drw x y n => 0xD#4 ++ x ++ y ++ n
  | .skp x => 0xE#4 ++ x ++ 0x9E#8
  | .sknp x => 0xE#4 ++ x ++ 0xA1#8
  | .ldFromDT x => 0xF#4 ++ x ++ 0x07#8
  | .ldKey x => 0xF#4 ++ x ++ 0x0A#8
  | .ldDT x => 0xF#4 ++ x ++ 0x15#8
  | .ldST x => 0xF#4 ++ x ++ 0x18#8
  | .addI x => 0xF#4 ++ x ++ 0x1E#8
  | .ldF x => 0xF#4 ++ x ++ 0x29#8
  | .ldB x => 0xF#4 ++ x ++ 0x33#8
  | .storeRegs x => 0xF#4 ++ x ++ 0x55#8
  | .loadRegs x => 0xF#4 ++ x ++ 0x65#8

/-- An instruction's two bytes, as memory holds them (R63, R80). -/
def encodeBytes (i : Instr) : List Byte := [highByte (encode i), lowByte (encode i)]

/-! ### The opcode map as a table (R84) -/

/-- A row of R84: a word `w` selects it when `w & mask = pattern`. -/
structure OpcodeRow where
  /-- the bits the row compares -/
  mask : Word
  /-- their values -/
  pattern : Word
  deriving DecidableEq, Repr

/-- `w & mask_r = match_r` (R84). -/
def OpcodeRow.selects (r : OpcodeRow) (w : Word) : Bool := w &&& r.mask == r.pattern

/-- The row of R84 an instruction's constructor stands for. -/
def Instr.row : Instr → OpcodeRow
  | .cls => ⟨0xFFFF, 0x00E0⟩
  | .ret => ⟨0xFFFF, 0x00EE⟩
  | .jp _ => ⟨0xF000, 0x1000⟩
  | .call _ => ⟨0xF000, 0x2000⟩
  | .seImm _ _ => ⟨0xF000, 0x3000⟩
  | .sneImm _ _ => ⟨0xF000, 0x4000⟩
  | .seReg _ _ => ⟨0xF000, 0x5000⟩
  | .ldImm _ _ => ⟨0xF000, 0x6000⟩
  | .addImm _ _ => ⟨0xF000, 0x7000⟩
  | .ldReg _ _ => ⟨0xF00F, 0x8000⟩
  | .orReg _ _ => ⟨0xF00F, 0x8001⟩
  | .andReg _ _ => ⟨0xF00F, 0x8002⟩
  | .xorReg _ _ => ⟨0xF00F, 0x8003⟩
  | .addReg _ _ => ⟨0xF00F, 0x8004⟩
  | .subReg _ _ => ⟨0xF00F, 0x8005⟩
  | .shr _ => ⟨0xF00F, 0x8006⟩
  | .subnReg _ _ => ⟨0xF00F, 0x8007⟩
  | .shl _ => ⟨0xF00F, 0x800E⟩
  | .sneReg _ _ => ⟨0xF000, 0x9000⟩
  | .ldI _ => ⟨0xF000, 0xA000⟩
  | .jpV0 _ => ⟨0xF000, 0xB000⟩
  | .rnd _ _ => ⟨0xF000, 0xC000⟩
  | .drw _ _ _ => ⟨0xF000, 0xD000⟩
  | .skp _ => ⟨0xF0FF, 0xE09E⟩
  | .sknp _ => ⟨0xF0FF, 0xE0A1⟩
  | .ldFromDT _ => ⟨0xF0FF, 0xF007⟩
  | .ldKey _ => ⟨0xF0FF, 0xF00A⟩
  | .ldDT _ => ⟨0xF0FF, 0xF015⟩
  | .ldST _ => ⟨0xF0FF, 0xF018⟩
  | .addI _ => ⟨0xF0FF, 0xF01E⟩
  | .ldF _ => ⟨0xF0FF, 0xF029⟩
  | .ldB _ => ⟨0xF0FF, 0xF033⟩
  | .storeRegs _ => ⟨0xF0FF, 0xF055⟩
  | .loadRegs _ => ⟨0xF0FF, 0xF065⟩

/-- Rows 1 to 9 of R84. -/
def opcodeRowsFlow : List OpcodeRow :=
  [⟨0xFFFF, 0x00E0⟩, ⟨0xFFFF, 0x00EE⟩, ⟨0xF000, 0x1000⟩,
   ⟨0xF000, 0x2000⟩, ⟨0xF000, 0x3000⟩, ⟨0xF000, 0x4000⟩,
   ⟨0xF000, 0x5000⟩, ⟨0xF000, 0x6000⟩, ⟨0xF000, 0x7000⟩]

/-- Rows 10 to 18 of R84, the group 0x8. -/
def opcodeRowsAlu : List OpcodeRow :=
  [⟨0xF00F, 0x8000⟩, ⟨0xF00F, 0x8001⟩, ⟨0xF00F, 0x8002⟩,
   ⟨0xF00F, 0x8003⟩, ⟨0xF00F, 0x8004⟩, ⟨0xF00F, 0x8005⟩,
   ⟨0xF00F, 0x8006⟩, ⟨0xF00F, 0x8007⟩, ⟨0xF00F, 0x800E⟩]

/-- Rows 19 to 25 of R84. -/
def opcodeRowsWide : List OpcodeRow :=
  [⟨0xF000, 0x9000⟩, ⟨0xF000, 0xA000⟩, ⟨0xF000, 0xB000⟩,
   ⟨0xF000, 0xC000⟩, ⟨0xF000, 0xD000⟩, ⟨0xF0FF, 0xE09E⟩,
   ⟨0xF0FF, 0xE0A1⟩]

/-- Rows 26 to 34 of R84, the group 0xF. -/
def opcodeRowsMisc : List OpcodeRow :=
  [⟨0xF0FF, 0xF007⟩, ⟨0xF0FF, 0xF00A⟩, ⟨0xF0FF, 0xF015⟩,
   ⟨0xF0FF, 0xF018⟩, ⟨0xF0FF, 0xF01E⟩, ⟨0xF0FF, 0xF029⟩,
   ⟨0xF0FF, 0xF033⟩, ⟨0xF0FF, 0xF055⟩, ⟨0xF0FF, 0xF065⟩]

/-- The opcode map of R84: its 34 rows in order. -/
def opcodeMap : List OpcodeRow := opcodeRowsFlow ++ opcodeRowsAlu ++ opcodeRowsWide ++ opcodeRowsMisc

/-- The bits of an instruction's word that are not don't-cares (R85): rows 7 and 19 ignore `n`, rows 16 and 18 ignore
`y`. -/
def Instr.careMask : Instr → Word
  | .cls => 0xFFFF
  | .ret => 0xFFFF
  | .jp _ => 0xFFFF
  | .call _ => 0xFFFF
  | .seImm _ _ => 0xFFFF
  | .sneImm _ _ => 0xFFFF
  | .seReg _ _ => 0xFFF0
  | .ldImm _ _ => 0xFFFF
  | .addImm _ _ => 0xFFFF
  | .ldReg _ _ => 0xFFFF
  | .orReg _ _ => 0xFFFF
  | .andReg _ _ => 0xFFFF
  | .xorReg _ _ => 0xFFFF
  | .addReg _ _ => 0xFFFF
  | .subReg _ _ => 0xFFFF
  | .shr _ => 0xFF0F
  | .subnReg _ _ => 0xFFFF
  | .shl _ => 0xFF0F
  | .sneReg _ _ => 0xFFF0
  | .ldI _ => 0xFFFF
  | .jpV0 _ => 0xFFFF
  | .rnd _ _ => 0xFFFF
  | .drw _ _ _ => 0xFFFF
  | .skp _ => 0xFFFF
  | .sknp _ => 0xFFFF
  | .ldFromDT _ => 0xFFFF
  | .ldKey _ => 0xFFFF
  | .ldDT _ => 0xFFFF
  | .ldST _ => 0xFFFF
  | .addI _ => 0xFFFF
  | .ldF _ => 0xFFFF
  | .ldB _ => 0xFFFF
  | .storeRegs _ => 0xFFFF
  | .loadRegs _ => 0xFFFF

/-- The instruction whose `nbits` bits, numbered from the least significant bit of the word, are those of `w`: the word laid
out as two bytes, high byte first (R63), and given to the decoder. Every instruction has 16 bits (R80); bits of `w` above
`nbits` or above the word are dropped (DESIGN CHOICE, safe: log entry 19). -/
def decodeTableWord (nbits w : Nat) : Option Instr :=
  let word : Word := BitVec.ofNat 16 (w % 2 ^ nbits)
  (decodeBytes [highByte word, lowByte word]).map Prod.fst

end Sys2Proof
end

