-- ==== Sys2Proof/Config.lean ====
section
/-! DEFINITION. The implementation parameters of 00_scope.md R6: the fixed sizes, the model arguments (a machine's
configuration), and the random-byte input, which has no law. -/

namespace Sys2Proof

/-- `MEM_SIZE`: 4096 byte locations (R6, R60). -/
abbrev memSize : Nat := 4096

/-- `PROG_BASE`: the reset `pc` and the ROM load address (R6, R261). -/
abbrev progBase : Nat := 0x200

/-- `ROM_MAX` = 4096 − 0x200 = 3584 bytes (R6, R263). -/
abbrev romMax : Nat := memSize - progBase

/-- `FONT_BASE` (R6, R67). -/
abbrev fontBase : Nat := 0x050

/-- The length of the fontset: 16 glyphs of 5 bytes (R67, R262). -/
abbrev fontSize : Nat := 80

/-- `FONTSET`: the 80 glyph bytes, a model argument (R6, R262). -/
abbrev Fontset := Vector Byte fontSize

/-- `TIMER_MODE` (R6): who decrements the delay timer. -/
inductive TimerMode where
  /-- every step of a running core decrements it (R230): the default -/
  | coupled
  /-- only the host's `tick` action decrements it (R231) -/
  | externalTick
  deriving DecidableEq, Repr

/-- The model arguments of R6. They are fixed for a machine; State carries them and no step changes them
(DESIGN CHOICE, safe: log entry 1). -/
structure Config where
  /-- the video width in pixels, at least 1 -/
  W : Nat
  /-- the video height in pixels, at least 1 -/
  H : Nat
  /-- `PIXEL_BITS`, the width of one cell on the video port -/
  pixelBits : Nat
  /-- `FONTSET` -/
  fontset : Fontset
  /-- `TIMER_MODE` -/
  timerMode : TimerMode
  deriving DecidableEq, Repr

/-- The random byte of draw number `d`: "any value, no law" (R40, R141). No body: nothing can be proved of a value of it
(DESIGN CHOICE, safe: log entry 2). -/
opaque Config.randomByte (d : Nat) : Byte

end Sys2Proof
end

