-- ==== Sys2Proof/Machine/Font.lean ====
section
/-! DEFINITION. The default FONTSET, the table of 70_reset_and_hazards.md R262, and what memory holds right after reset. -/

namespace Sys2Proof.Machine

/-- The glyphs 0 to 7 of R262. -/
def fontGlyphsLow : List Byte :=
  [0xF0, 0x90, 0x90, 0x90, 0xF0] ++ [0x20, 0x60, 0x20, 0x20, 0x70] ++
  [0xF0, 0x10, 0xF0, 0x80, 0xF0] ++ [0xF0, 0x10, 0xF0, 0x10, 0xF0] ++
  [0x90, 0x90, 0xF0, 0x10, 0x10] ++ [0xF0, 0x80, 0xF0, 0x10, 0xF0] ++
  [0xF0, 0x80, 0xF0, 0x90, 0xF0] ++ [0xF0, 0x10, 0x20, 0x40, 0x40]

/-- The glyphs 8 to F of R262. -/
def fontGlyphsHigh : List Byte :=
  [0xF0, 0x90, 0xF0, 0x90, 0xF0] ++ [0xF0, 0x90, 0xF0, 0x10, 0xF0] ++
  [0xF0, 0x90, 0xF0, 0x90, 0x90] ++ [0xE0, 0x90, 0xE0, 0x90, 0xE0] ++
  [0xF0, 0x80, 0x80, 0x80, 0xF0] ++ [0xE0, 0x90, 0x90, 0x90, 0xE0] ++
  [0xF0, 0x80, 0xF0, 0x80, 0xF0] ++ [0xF0, 0x80, 0xF0, 0x80, 0x80]

/-- The default FONTSET (R262; the spec gives its bytes from general knowledge, G3: log entry 15). -/
def defaultFontset : Fontset := ⟨⟨fontGlyphsLow ++ fontGlyphsHigh⟩, rfl⟩

/-- The default configuration of R6: 64 × 32 pixels, 32-bit cells, the default fontset, COUPLED. -/
def defaultConfig : Config :=
  { W := 64, H := 32, pixelBits := 32, fontset := defaultFontset, timerMode := .coupled }

/-- The byte at address `a` right after reset, before the ROM is copied: FONTSET[j] at 0x050 + j, every other byte 0 (R260,
R262; 20_memory.md R67). It is what an address that memory does not list reads as (log entry 7). -/
def resetByte (font : Fontset) (a : Nat) : Byte :=
  if h : fontBase ≤ a ∧ a < fontBase + fontSize then font[a - fontBase]'(by omega) else 0

end Sys2Proof.Machine
end

