-- ==== Sys2Proof/Machine/Memory.lean ====
section
/-! DEFINITION. Memory as plain data (20_memory.md R60, R61): the list of the bytes that differ from the reset content, in one
canonical form, so that equal memories are equal lists (DESIGN CHOICE, safe: log entry 7). -/

namespace Sys2Proof.Machine

/-- The bytes that differ from the reset content, each with its address. -/
abbrev Memory := List Host.Cell

/-- The canonical form: addresses strictly rising, each below 4096, and no entry equal to what its address reads as when it
is not listed. -/
abbrev Memory.wf (font : Fontset) (m : Memory) : Prop :=
  m.Pairwise (fun c d => c.1 < d.1) ∧ ∀ c ∈ m, c.1 < memSize ∧ c.2 ≠ resetByte font c.1

/-- The byte listed at address `a`. -/
def Memory.lookup : Memory → Nat → Option Byte
  | [], _ => none
  | (k, b) :: rest, a => if k = a then some b else Memory.lookup rest a

/-- `mem[a]`: "the value of the most recent write to the same address ... Where no write has happened since reset, it
returns the reset content" (R69). -/
def Memory.read (font : Fontset) (m : Memory) (a : Nat) : Byte := (m.lookup a).getD (resetByte font a)

/-- List byte `b` at address `a`, in order, in place of what was listed there. -/
def Memory.insert : Memory → Nat → Byte → Memory
  | [], a, b => [(a, b)]
  | (k, c) :: rest, a, b =>
    if a < k then (a, b) :: (k, c) :: rest
    else if a = k then (a, b) :: rest
    else (k, c) :: Memory.insert rest a b

/-- List nothing at address `a`. -/
def Memory.erase (m : Memory) (a : Nat) : Memory := m.filter (fun c => c.1 != a)

/-- `mem[a] <- b`: "A write changes exactly the one byte it names" (R66). Writing the reset content removes the entry. -/
def Memory.write (font : Fontset) (m : Memory) (a : Nat) (b : Byte) : Memory :=
  if b = resetByte font a then m.erase a else m.insert a b

/-- `mem[a + j] <- bs[j]` for every j, in ascending order: how `boot` copies the ROM (R260). -/
def Memory.writeBytes (font : Fontset) (m : Memory) (a : Nat) : List Byte → Memory
  | [] => m
  | b :: bs => Memory.writeBytes font (m.write font a b) (a + 1) bs

end Sys2Proof.Machine
end

