-- ==== Sys2Proof/Machine/Video.lean ====
section
/-! DEFINITION. The video buffer as plain data (10_state.md R31; 43_display.md R180, R184): the row-major indexes of the lit
cells, strictly rising, so that equal screens are equal lists (DESIGN CHOICE, safe: log entry 6). -/

namespace Sys2Proof.Machine

/-- The indexes of the cells that are on. A cell that is not listed is off. -/
abbrev Video := List Nat

/-- The canonical form for a buffer of `size` cells: strictly rising indexes, each of a cell that exists. -/
abbrev Video.wf (size : Nat) (v : Video) : Prop := v.Pairwise (· < ·) ∧ ∀ k ∈ v, k < size

/-- The index of the cell in column x and row y: "cell (x, y) at index y × W + x, row-major" (R40, R184). -/
def cellIndex (W x y : Nat) : Nat := y * W + x

/-- Whether the cell of index `k` is on. -/
def Video.isOn (v : Video) (k : Nat) : Bool := decide (k ∈ v)

/-- List `k`, in order. -/
def Video.insert : Video → Nat → Video
  | [], k => [k]
  | j :: rest, k => if k < j then k :: j :: rest else j :: Video.insert rest k

/-- XOR of a cell with the full-set pattern, which "is Boolean negation" (R180). -/
def Video.toggle (v : Video) (k : Nat) : Video :=
  if k ∈ v then v.filter (fun j => j != k) else v.insert k

end Sys2Proof.Machine
end

