-- ==== Sys2Proof/Machine/State.lean ====
section
/-! DEFINITION. The machine's state (10_state.md R20), the reasons a host action can stop, and the state after reset
(70_reset_and_hazards.md R260). -/

namespace Sys2Proof.Machine

/-- The event codes that the fault latch carries (60_exceptions.md R221). -/
inductive FaultCode where
  /-- 1: CALL with SP = 16 -/
  | stackOverflow
  /-- 2: RET with SP = 0 -/
  | stackUnderflow
  /-- 3: LD F, Vx with Vx > 15 -/
  | fontDigitRange
  /-- 4: SKP or SKNP with Vx > 15 -/
  | keyIndexRange
  deriving DecidableEq, Repr

/-- The code's number on the `fault_out` port (R221). -/
def FaultCode.number : FaultCode → Nat
  | .stackOverflow => 1
  | .stackUnderflow => 2
  | .fontDigitRange => 3
  | .keyIndexRange => 4

/-- What the fault latch holds: "the fault code and the fetch address of the faulting instruction" (R33). -/
structure FaultRecord where
  /-- the fault code -/
  code : FaultCode
  /-- the fetch address of the faulting instruction -/
  addr : Word
  deriving DecidableEq, Repr

/-- What the `unknown` port shows: "the word and its fetch address" (R40, R221, R222). -/
structure UnknownReport where
  /-- the unknown word -/
  word : Word
  /-- its fetch address -/
  addr : Word
  deriving DecidableEq, Repr

/-- The reasons a step stops with the host interface's own fault. There is none, so the type has no constructor: a fault of
this core is a NEXT state whose fault latch is set and which every later step leaves unchanged (60_exceptions.md R223, R225;
30_encoding.md R90), and "No other instruction and no fetch can fault" (R221). DEDUCED, safe: log entry 4. -/
inductive Fault
  deriving DecidableEq, Repr

/-- The reasons a host action or an instruction has no meaning. -/
inductive Refusal where
  /-- An arm of `exec` that has no meaning yet, by its mnemonic. Raised by no arm of this model. Safe: the machine stops. -/
  | notModelled (mnemonic : String)
  /-- `ROM_TOO_LARGE`: raised by the host action `boot` alone, for a ROM of more than 3584 bytes (70_reset_and_hazards.md
  R263). Safe: no state is produced. -/
  | romTooLarge
  /-- `step`, `tick` and `set_keys` on a core that no successful `boot` has started: "No core state results, and no `step` may
  follow until a `boot` succeeds" (R263). Raised by `HostedCore.perform` alone, never on a state. Safe: no state is produced,
  and a later `boot` starts the core (log entry 21). -/
  | notStarted
  /-- Raised by the host action `tick` alone, in COUPLED mode: the strobe is "present only when TIMER_MODE = EXTERNAL_TICK"
  (10_state.md R40). Safe: no state is produced (log entry 11). -/
  | tickAbsent
  deriving DecidableEq, Repr

/-- The core's state: the tuple of R20, and with it the configuration (log entry 1), the `unknown` port's register (log
entry 3) and the count of random bytes drawn (log entry 2). -/
structure State where
  /-- the model arguments of R6, fixed for a machine -/
  config : Config
  /-- memory (R60) -/
  mem : Memory
  /-- the registers V0 to VF (R21); VF is the flag (R22) -/
  V : Vector Byte 16
  /-- the index register (R25) -/
  I : Word
  /-- the program counter (R24) -/
  pc : Word
  /-- the call stack (R26) -/
  stack : Vector Word 16
  /-- the stack pointer, "a natural number 0 to 16" (R27) -/
  SP : Fin 17
  /-- the delay timer (R28) -/
  DT : Byte
  /-- the keypad: bit k is the level of logical key k (R30, R40; log entry 8) -/
  keys : BitVec 16
  /-- the video buffer (R31) -/
  video : Video
  /-- the opcode latch (R32) -/
  opcode : Word
  /-- the fault latch (R33) -/
  fault : Option FaultRecord
  /-- the `unknown` port (R40, R222) -/
  unknown : Option UnknownReport
  /-- the model's own field: how many random bytes have been drawn (R141; log entry 2) -/
  draws : Nat
  deriving DecidableEq, Repr

/-- The state `boot` establishes before it copies the ROM (R260), for a machine of configuration `c` whose next random byte
is number `d`. -/
def State.resetWith (c : Config) (d : Nat) : State where
  config := c
  mem := []
  V := Vector.replicate 16 0
  I := 0
  pc := BitVec.ofNat 16 progBase
  stack := Vector.replicate 16 0
  SP := 0
  DT := 0
  keys := 0
  video := []
  opcode := 0
  fault := none
  unknown := none
  draws := d

/-- The machine right after reset: the state of R260 with an empty ROM, in the default configuration of R6 (log entry 10). -/
def State.reset : State := State.resetWith defaultConfig 0

end Sys2Proof.Machine
end

