-- ==== Sys2Proof/Machine/Flags.lean ====
section
/-! DEFINITION. The flag computations: the values VF takes (41_register_alu.md R136 to R140, R142; 43_display.md R182). -/

namespace Sys2Proof.Machine

/-- `bool(c)`: 1 when c holds and 0 otherwise (00_scope.md R8). -/
def boolByte (c : Bool) : Byte := if c then 1 else 0

/-- The widened sum of two registers, "a natural 0..510" (R136). -/
def wideSum (a b : Byte) : Nat := a.toNat + b.toNat

/-- Carry out of bit 7: "1 if the sum exceeds 255, else 0" (R136). -/
def carryFlag (a b : Byte) : Byte := boolByte (decide (wideSum a b > 255))

/-- Not-borrow, strict: "1 only when the minuend is strictly greater than the subtrahend" (R137, R139, R142; C6). -/
def greaterFlag (minuend subtrahend : Byte) : Byte := boolByte (decide (minuend.toNat > subtrahend.toNat))

/-- The bit a right shift moves out: `V[x] & 0x01` (R138). -/
def shiftedOutLow (a : Byte) : Byte := a &&& 0x01

/-- The bit a left shift moves out: `(V[x] >> 7) & 0x01` (R140). -/
def shiftedOutHigh (a : Byte) : Byte := (a >>> 7) &&& 0x01

/-- The collision flag once a lit cell has been turned off (R182). -/
def collisionFlag : Byte := boolByte true

/-- The collision flag before a draw (R182). -/
def noCollisionFlag : Byte := boolByte false

end Sys2Proof.Machine
end

