-- ==== Sys2Proof/Machine/Operands.lean ====
section
/-! DEFINITION. The operand forms (30_encoding.md R81, R82; 42_index_memory.md R166): registers, zero-extended immediates and
addresses, the I-relative effective address, key indexes and font digits, the bits of a sprite row. -/

namespace Sys2Proof.Machine

/-- `zext_16(v)`, "widens v with zero bits" (00_scope.md R8). -/
def zext16 (n : Nat) (v : BitVec n) : Word := v.setWidth 16

/-- The address operand `nnn` as written to `pc` or `I`: `zext_16(nnn)` (R82). -/
def addrOperand (nnn : Addr) : Word := zext16 12 nnn

/-- A register's value as an addend of a 16-bit sum: `zext_16(V[x])` (R118, R161). -/
def byteOperand (b : Byte) : Word := zext16 8 b

/-- The index of VF (R22). -/
def vF : Nibble := 0xF

/-- The index of V0, the fixed register of `JP V0, nnn` (R118). -/
def v0 : Nibble := 0x0

/-- `V[x]` (R9). -/
def State.reg (s : State) (x : Nibble) : Byte := s.V[x.toNat]'x.isLt

/-- The register of index k, for k from 0 to 15: the loop variable of FX55 and FX65 (R164, R165). -/
def regIndex (k : Nat) : Nibble := BitVec.ofNat 4 k

/-- The address of byte k of an access through I: `I + k`, on 16 bits; the memory port reduces it mod 4096 (R166). -/
def State.indexed (s : State) (k : Nat) : Word := s.I + BitVec.ofNat 16 k

/-- Where a memory access lands: every byte address "is reduced mod 4096 at the memory port" (20_memory.md R61). -/
def portAddr (a : Word) : Nat := a.toNat % memSize

/-- A register's value as a key index or a font digit is in range: 0 to 15 (R162, R200, R201). -/
def digitInRange (b : Byte) : Bool := decide (b.toNat ≤ 15)

/-- Pixel c of a sprite row: `b[7 - c]`, "bit 7 is the leftmost pixel" (43_display.md R182). -/
def spriteBit (b : Byte) (c : Nat) : Bool := b.getLsbD (7 - c)

/-- The three decimal digits of a byte, hundreds first (42_index_memory.md R163). -/
def bcdHundreds (v : Byte) : Byte := BitVec.ofNat 8 (v.toNat / 100)

/-- The tens digit (R163). -/
def bcdTens (v : Byte) : Byte := BitVec.ofNat 8 (v.toNat / 10 % 10)

/-- The ones digit (R163). -/
def bcdOnes (v : Byte) : Byte := BitVec.ofNat 8 (v.toNat % 10)

end Sys2Proof.Machine
end

