-- ==== Sys2Proof/Machine/Ops.lean ====
section
/-! DEFINITION. The named operations over registers, memory, the stack, the video buffer, the keypad, the timer and the random
input (the primitives of 00_scope.md R9), taking a fault (60_exceptions.md R223), and the phases of a step that stand around
execute (30_encoding.md R90, R91). -/

namespace Sys2Proof.Machine

/-- What an instruction, a step or a host action answers. -/
abbrev Result := Host.Outcome State Fault Refusal

/-! ### Registers -/

/-- `V[x] <- b` (R9). No register is hard-wired (10_state.md R21). -/
def State.setReg (s : State) (x : Nibble) (b : Byte) : State := { s with V := s.V.set x.toNat b x.isLt }

/-- `I <- a` (R9). -/
def State.setI (s : State) (a : Word) : State := { s with I := a }

/-- `pc <- a` (R9). -/
def State.setPc (s : State) (a : Word) : State := { s with pc := a }

/-- `DT <- b` (R9). -/
def State.setDT (s : State) (b : Byte) : State := { s with DT := b }

/-- `skip()`: `pc <- (pc + 2) mod 2^16` (40_control_flow.md R110). -/
def State.skip (s : State) : State := s.setPc (s.pc + 2)

/-- `skip()` when the condition holds, and nothing otherwise (R110, R114 to R117, R200, R201). -/
def State.skipIf (s : State) (c : Bool) : State := if c then s.skip else s

/-! ### Memory -/

/-- `MemRead(a, 1)`: `mem[a mod 4096]` (20_memory.md R61). -/
def State.memRead (s : State) (a : Word) : Byte := s.mem.read s.config.fontset (portAddr a)

/-- `MemWrite(a, 1, b)`: `mem[a mod 4096] <- b` (R61). -/
def State.memWrite (s : State) (a : Word) (b : Byte) : State :=
  { s with mem := s.mem.write s.config.fontset (portAddr a) b }

/-- `MemRead(a, 2)`, "a big-endian 16-bit read of two separately reduced byte addresses; used only by instruction fetch"
(R9, R63). -/
def State.memRead2 (s : State) (a : Word) : Word := wordOfBytes (s.memRead a) (s.memRead (a + 1))

/-- A word stored as fetch reads it back: its high byte at `a`, its low byte at `a + 1` (R63). No instruction does this: it
serves `withFetchWord`. -/
def State.storeWord (s : State) (a w : Word) : State := (s.memWrite a (highByte w)).memWrite (a + 1) (lowByte w)

/-! ### The video buffer -/

/-- `Pixel(x, y)` (R9, R31). -/
def State.pixel (s : State) (x y : Nat) : Bool := s.video.isOn (cellIndex s.config.W x y)

/-- `Pixel(x, y) <- not Pixel(x, y)` (43_display.md R180, R182). -/
def State.togglePixel (s : State) (x y : Nat) : State :=
  { s with video := s.video.toggle (cellIndex s.config.W x y) }

/-- `Pixel(x, y) <- false` for every cell (R181). -/
def State.clearVideo (s : State) : State := { s with video := [] }

/-- Whether column x and row y are on the screen: the per-pixel bounds check of R182. -/
def State.onScreen (s : State) (x y : Nat) : Bool := decide (x < s.config.W ∧ y < s.config.H)

/-! ### The keypad -/

/-- `Key(k)`: the level of slot k (R9, 10_state.md R30). -/
def State.key (s : State) (k : Nat) : Bool := s.keys.getLsbD k

/-- `min { k | Key(k) }`: "scan logical keys in ascending index order" (44_keypad_timer_io.md R203). -/
def State.lowestKey (s : State) : Option Nat := (List.range 16).find? s.key

/-! ### The random input -/

/-- `RandomByte()`: the step's random byte (41_register_alu.md R141), a free value (log entry 2). -/
def State.randomByte (s : State) : Byte := Config.randomByte s.draws

/-- One more random byte has been drawn (log entry 2). -/
def State.nextDraw (s : State) : State := { s with draws := s.draws + 1 }

/-! ### Taking a fault -/

/-- `raise Fault(code)` (R9, 60_exceptions.md R223): "the state as it was before the step, except that fault <- (code, a)".
It is called on the state at the start of execute, where the step has done nothing but advance `pc` past the fetch address
`a`, so it takes the advance back and sets the latch; the opcode latch has not been written yet (log entry 5). There is no
return from a fault (R225). -/
def State.raiseFault (s : State) (code : FaultCode) : State :=
  { s with pc := s.pc - 2, fault := some { code := code, addr := s.pc - 2 } }

/-! ### The call stack -/

/-- `stack[SP] <- pc; SP <- SP + 1`, or the fault of a full stack (40_control_flow.md R113). -/
def State.callTo (s : State) (target : Word) : State :=
  if h : s.SP.val < 16 then
    { s with stack := s.stack.set s.SP.val s.pc h, SP := ⟨s.SP.val + 1, by omega⟩, pc := target }
  else s.raiseFault .stackOverflow

/-- `SP <- SP - 1; pc <- stack[SP]`, or the fault of an empty stack (R111). -/
def State.returnFromCall (s : State) : State :=
  if h : 0 < s.SP.val then
    { s with SP := ⟨s.SP.val - 1, by omega⟩, pc := s.stack[s.SP.val - 1]'(by omega) }
  else s.raiseFault .stackUnderflow

/-! ### The phases of a step around execute -/

/-- Fetch: the big-endian word at `pc` (R63, R91). -/
def State.fetchWord (s : State) : Word := s.memRead2 s.pc

/-- "Advance PC by 2 immediately after fetch, before dispatch" (R91). The `unknown` port shows the step before no longer
(R222). -/
def State.advance (s : State) : State := { s with pc := s.pc + 2, unknown := none }

/-- `report UnknownOpcode(w, a)` (R9, R222). -/
def State.reportUnknown (s : State) (w a : Word) : State := { s with unknown := some { word := w, addr := a } }

/-- `opcode <- w` (R90). -/
def State.latchOpcode (s : State) (w : Word) : State := { s with opcode := w }

/-- `if DT ≠ 0: DT <- DT − 1`: "DT stops at 0 and never wraps" (60_exceptions.md R230, R231). -/
def State.decrementDT (s : State) : State := if s.DT ≠ 0 then s.setDT (s.DT - 1) else s

/-- The delay-timer phase of a step: the decrement, in COUPLED mode only (R90, R230, R231). -/
def State.timerPhase (s : State) : State :=
  match s.config.timerMode with
  | .coupled => s.decrementDT
  | .externalTick => s

/-- The end of a step that fetched `w`. "When the instruction raises a fault, the rest of the step does not run" (R90);
otherwise the opcode latch holds `w` (log entry 5) and the delay-timer phase runs (R93). -/
def State.retire (s : State) (w : Word) : State :=
  if s.fault.isSome then s else (s.latchOpcode w).timerPhase

end Sys2Proof.Machine
end

