-- ==== Sys2Proof/Machine/ControlFlow.lean ====
section
/-! DEFINITION. The control-flow instructions (40_control_flow.md). On entry `pc` is the fetch address plus 2 (R91). -/

namespace Sys2Proof.Machine

/-- `RET` (R111). -/
def execRet (s : State) : Result := .next s.returnFromCall

/-- `JP nnn` (R112). -/
def execJp (nnn : Addr) (s : State) : Result := .next (s.setPc (addrOperand nnn))

/-- `CALL nnn` (R113). -/
def execCall (nnn : Addr) (s : State) : Result := .next (s.callTo (addrOperand nnn))

/-- `SE Vx, kk` (R114). -/
def execSeImm (x : Nibble) (kk : Byte) (s : State) : Result := .next (s.skipIf (s.reg x == kk))

/-- `SNE Vx, kk` (R115). -/
def execSneImm (x : Nibble) (kk : Byte) (s : State) : Result := .next (s.skipIf (s.reg x != kk))

/-- `SE Vx, Vy` (R116). -/
def execSeReg (x y : Nibble) (s : State) : Result := .next (s.skipIf (s.reg x == s.reg y))

/-- `SNE Vx, Vy` (R117). -/
def execSneReg (x y : Nibble) (s : State) : Result := .next (s.skipIf (s.reg x != s.reg y))

/-- `JP V0, nnn`: `pc <- zext_16(V[0]) + zext_16(nnn)` (R118). -/
def execJpV0 (nnn : Addr) (s : State) : Result := .next (s.setPc (byteOperand (s.reg v0) + addrOperand nnn))

end Sys2Proof.Machine
end

