-- ==== Sys2Proof/Machine/Display.lean ====
section
/-! DEFINITION. The display instructions and the draw unit (43_display.md R181, R182), as the loops of the pseudocode. -/

namespace Sys2Proof.Machine

/-- `CLS` (R181). -/
def execCls (s : State) : Result := .next s.clearVideo

/-- A set sprite bit that falls at column px and row py: clipped off the screen, else the collision test and the toggle. -/
def State.drawBit (s : State) (px py : Nat) : State :=
  if s.onScreen px py then (if s.pixel px py then s.setReg vF collisionFlag else s).togglePixel px py else s

/-- The eight pixels of sprite row `b`, leftmost first, from column ox in row py. -/
def State.drawRow (s : State) (ox py : Nat) (b : Byte) : State :=
  (List.range 8).foldl (fun t c => if spriteBit b c then t.drawBit (ox + c) py else t) s

/-- The rows r = 0 to n − 1 of the sprite at I, from row oy: "no iteration when n = 0". -/
def State.drawRows (s : State) (ox oy n : Nat) : State :=
  (List.range n).foldl (fun t r => t.drawRow ox (oy + r) (t.memRead (t.indexed r))) s

/-- The origin column, `V[x] mod W`. -/
def State.originX (s : State) (x : Nibble) : Nat := (s.reg x).toNat % s.config.W

/-- The origin row, `V[y] mod H`. -/
def State.originY (s : State) (y : Nibble) : Nat := (s.reg y).toNat % s.config.H

/-- `DRW Vx, Vy, n` (R182): both coordinates are read before VF is cleared. -/
def execDrw (x y n : Nibble) (s : State) : Result :=
  .next ((s.setReg vF noCollisionFlag).drawRows (s.originX x) (s.originY y) n.toNat)

end Sys2Proof.Machine
end

