-- ==== Sys2Proof/Machine/IndexMemory.lean ====
section
/-! DEFINITION. The index-register and memory instructions (42_index_memory.md). No access modifies I (R166). -/

namespace Sys2Proof.Machine

/-- `LD I, nnn` (R160). -/
def execLdI (nnn : Addr) (s : State) : Result := .next (s.setI (addrOperand nnn))

/-- `ADD I, Vx`: `(I + zext_16(V[x])) mod 2^16`, no flag (R161). -/
def execAddI (x : Nibble) (s : State) : Result := .next (s.setI (s.I + byteOperand (s.reg x)))

/-- The address of the glyph of digit `d`: `0x050 + 5 * d` (R162, 20_memory.md R67). -/
def glyphAddr (d : Byte) : Word := BitVec.ofNat 16 (fontBase + 5 * d.toNat)

/-- `LD F, Vx` (R162). -/
def execLdF (x : Nibble) (s : State) : Result :=
  if digitInRange (s.reg x) then .next (s.setI (glyphAddr (s.reg x)))
  else .next (s.raiseFault .fontDigitRange)

/-- The three digits of `v` at I, I + 1 and I + 2, in that order (R163). -/
def State.storeBcd (s : State) (v : Byte) : State :=
  ((s.memWrite (s.indexed 0) (bcdHundreds v)).memWrite (s.indexed 1) (bcdTens v)).memWrite (s.indexed 2) (bcdOnes v)

/-- `LD B, Vx`: "v is read once, before the writes" (R163). -/
def execLdB (x : Nibble) (s : State) : Result := .next (s.storeBcd (s.reg x))

/-- `MemWrite(I + k, 1, V[k])` for k = 0 to count − 1, ascending (R164). -/
def State.storeBlock (s : State) (count : Nat) : State :=
  (List.range count).foldl (fun t k => t.memWrite (t.indexed k) (t.reg (regIndex k))) s

/-- `LD [I], Vx`: registers 0 to x inclusive (R164). -/
def execStoreRegs (x : Nibble) (s : State) : Result := .next (s.storeBlock (x.toNat + 1))

/-- `V[k] <- MemRead(I + k, 1)` for k = 0 to count − 1, ascending (R165). -/
def State.loadBlock (s : State) (count : Nat) : State :=
  (List.range count).foldl (fun t k => t.setReg (regIndex k) (t.memRead (t.indexed k))) s

/-- `LD Vx, [I]`: registers 0 to x inclusive (R165). -/
def execLoadRegs (x : Nibble) (s : State) : Result := .next (s.loadBlock (x.toNat + 1))

end Sys2Proof.Machine
end

