-- ==== Sys2Proof/Machine/KeypadTimer.lean ====
section
/-! DEFINITION. The keypad and timer instructions (44_keypad_timer_io.md). -/

namespace Sys2Proof.Machine

/-- `SKP Vx` (R200). -/
def execSkp (x : Nibble) (s : State) : Result :=
  if digitInRange (s.reg x) then .next (s.skipIf (s.key (s.reg x).toNat))
  else .next (s.raiseFault .keyIndexRange)

/-- `SKNP Vx` (R201). -/
def execSknp (x : Nibble) (s : State) : Result :=
  if digitInRange (s.reg x) then .next (s.skipIf (!s.key (s.reg x).toNat))
  else .next (s.raiseFault .keyIndexRange)

/-- `LD Vx, DT`: the value before this step's decrement (R202, 30_encoding.md R93). -/
def execLdFromDT (x : Nibble) (s : State) : Result := .next (s.setReg x s.DT)

/-- `LD Vx, K`: the lowest pressed key, or the same word again next step (R203). -/
def execLdKey (x : Nibble) (s : State) : Result :=
  match s.lowestKey with
  | some k => .next (s.setReg x (BitVec.ofNat 8 k))
  | none => .next (s.setPc (s.pc - 2))

/-- `LD DT, Vx` (R204). -/
def execLdDT (x : Nibble) (s : State) : Result := .next (s.setDT (s.reg x))

/-- `LD ST, Vx`: "decoded but intentionally a no-op" (R205). No operand takes effect. -/
def execLdST (s : State) : Result := .next s

end Sys2Proof.Machine
end

