-- ==== Sys2Proof/Machine/RegisterAlu.lean ====
section
/-! DEFINITION. The register and arithmetic instructions (41_register_alu.md). Each statement of a rule's pseudocode reads the
state the statements before it left (00_scope.md R10): that decides the results when x or y is 0xF. -/

namespace Sys2Proof.Machine

/-- `LD Vx, kk` (R130). -/
def execLdImm (x : Nibble) (kk : Byte) (s : State) : Result := .next (s.setReg x kk)

/-- `ADD Vx, kk`: 8-bit wraparound, no flag (R131). -/
def execAddImm (x : Nibble) (kk : Byte) (s : State) : Result := .next (s.setReg x (s.reg x + kk))

/-- `LD Vx, Vy` (R132). -/
def execLdReg (x y : Nibble) (s : State) : Result := .next (s.setReg x (s.reg y))

/-- `OR Vx, Vy` (R133). -/
def execOrReg (x y : Nibble) (s : State) : Result := .next (s.setReg x (s.reg x ||| s.reg y))

/-- `AND Vx, Vy` (R134). -/
def execAndReg (x y : Nibble) (s : State) : Result := .next (s.setReg x (s.reg x &&& s.reg y))

/-- `XOR Vx, Vy` (R135). -/
def execXorReg (x y : Nibble) (s : State) : Result := .next (s.setReg x (s.reg x ^^^ s.reg y))

/-- `ADD Vx, Vy` (R136): the sum is taken before any write, VF is written, then Vx. -/
def execAddReg (x y : Nibble) (s : State) : Result :=
  let sum := wideSum (s.reg x) (s.reg y)
  let flagged := s.setReg vF (carryFlag (s.reg x) (s.reg y))
  .next (flagged.setReg x (BitVec.ofNat 8 sum))

/-- `SUB Vx, Vy` (R137): VF is written, then the difference reads the registers again. -/
def execSubReg (x y : Nibble) (s : State) : Result :=
  let flagged := s.setReg vF (greaterFlag (s.reg x) (s.reg y))
  .next (flagged.setReg x (flagged.reg x - flagged.reg y))

/-- `SHR Vx` (R138): VF is written, then the logical shift reads Vx again. -/
def execShr (x : Nibble) (s : State) : Result :=
  let flagged := s.setReg vF (shiftedOutLow (s.reg x))
  .next (flagged.setReg x (flagged.reg x >>> 1))

/-- `SUBN Vx, Vy` (R139): VF is written, then the difference reads the registers again. -/
def execSubnReg (x y : Nibble) (s : State) : Result :=
  let flagged := s.setReg vF (greaterFlag (s.reg y) (s.reg x))
  .next (flagged.setReg x (flagged.reg y - flagged.reg x))

/-- `SHL Vx` (R140): VF is written, then the shift reads Vx again. -/
def execShl (x : Nibble) (s : State) : Result :=
  let flagged := s.setReg vF (shiftedOutHigh (s.reg x))
  .next (flagged.setReg x (flagged.reg x <<< 1))

/-- `V[x] <- r & kk`, for the random byte `r` (R141). -/
def State.storeRandom (s : State) (x : Nibble) (kk r : Byte) : State := s.nextDraw.setReg x (r &&& kk)

/-- `RND Vx, kk` (R141): the random byte is a free value. -/
def execRnd (x : Nibble) (kk : Byte) (s : State) : Result := .next (s.storeRandom x kk s.randomByte)

end Sys2Proof.Machine
end

