-- ==== Sys2Proof/Machine/Cycle.lean ====
section
/-! DEFINITION. The cycle driver (30_encoding.md R90): fetch, advance `pc`, decode, execute, delay-timer phase. -/

namespace Sys2Proof.Machine

/-- What a step makes of an instruction's answer: the end of the step, on the state execute left. -/
def finish (w : Word) : Result → Result
  | .next t => .next (t.retire w)
  | .fault r => .fault r
  | .refused r => .refused r

/-- Dispatch (R89, R92): the decoded instruction's rule, or the report of an unknown opcode fetched at `a` (60_exceptions.md
R222), on the state after the advance. -/
def dispatch (w a : Word) (s : State) : Result :=
  match decode w with
  | .instr i => exec i s
  | .unknown _ => .next (s.reportUnknown w a)

/-- One call of the cycle driver (R90). "faulted core: no effect". -/
def cycle (s : State) : Result :=
  if s.fault.isSome then .next s
  else finish s.fetchWord (dispatch s.fetchWord s.pc s.advance)

/-- `s` with the instruction of bits `w` where the next fetch reads it. A faulted core fetches nothing, so the fault latch is
cleared (DESIGN CHOICE, safe: log entry 9). -/
def State.placeFetchWord (s : State) (w : Word) : State := { s.storeWord s.pc w with fault := none }

end Sys2Proof.Machine
end

