-- ==== Sys2Proof/Machine/Step.lean ====
section
/-! DEFINITION. The step: exactly one call of the cycle driver (30_encoding.md R90). -/

namespace Sys2Proof.Machine

/-- The host action `step` (R41, R90). The random byte it takes is a free value (R141; log entry 2). -/
def step (s : State) : Host.Outcome State Fault Refusal := cycle s

/-- `s` with the instruction of `nbits` bits `w` stored where `step` fetches its next instruction (log entry 9). -/
def State.withFetchWord (s : State) (nbits w : Nat) : State := s.placeFetchWord (BitVec.ofNat 16 (w % 2 ^ nbits))

end Sys2Proof.Machine
end

