-- ==== Sys2Proof/WellFormed.lean ====
section
/-! DEFINITION. What the spec demands of the terms a machine is built from. An `Instr` has no ill-formed term: each operand's
type is exactly the range its field has (30_encoding.md R81, R82), so no check stands here for it (DESIGN CHOICE, safe: log
entry 20). The configuration and the ROM do have a range to check. -/

namespace Sys2Proof

/-- The model arguments are in range: "W, H ... each at least 1" (00_scope.md R6). The fontset's length is in its type. -/
abbrev Config.wf (c : Config) : Prop := 1 ≤ c.W ∧ 1 ≤ c.H

/-- The ROM fits: its length "must satisfy L ≤ 4096 − 0x200 = 3584" (70_reset_and_hazards.md R263). -/
abbrev romFits (rom : List Byte) : Prop := rom.length ≤ romMax

end Sys2Proof
end

