-- ==== Sys2Proof/Machine/HostActions.lean ====
section
/-! DEFINITION. The host interface beside `step` (10_state.md R38 to R42; 60_exceptions.md R236; 70_reset_and_hazards.md R260 to
R263): `boot`, `tick`, `set_keys`, and the outputs the host reads between actions. -/

namespace Sys2Proof.Machine

/-- `mem[0x200 + j] <- rom[j]` (R260, R263). -/
def State.loadRom (s : State) (rom : List Byte) : State :=
  { s with mem := s.mem.writeBytes s.config.fontset progBase rom }

/-- `boot(rom)` on a machine of configuration `c` whose next random byte is number `d`: the reset state with the ROM (R260),
or the refusal of an oversized ROM (R263). -/
def bootWith (c : Config) (d : Nat) (rom : List Byte) : Result :=
  if romFits rom then .next ((State.resetWith c d).loadRom rom) else .refused .romTooLarge

/-- `boot(rom)` "may be called at any time, on a running or a faulted core, and it replaces the whole state" (R260). The
configuration stays the machine's, and the random input goes on (log entry 12). -/
def State.boot (s : State) (rom : List Byte) : Result := bootWith s.config s.draws rom

/-- `tick` (R231): the strobe is present in EXTERNAL_TICK mode only (R40; log entry 11); a faulted core ignores it
(R225). -/
def State.tick (s : State) : Result :=
  match s.config.timerMode with
  | .externalTick => .next (if s.fault.isSome then s else s.decrementDT)
  | .coupled => .refused .tickAbsent

/-- `set_keys(k)` "replaces all 16 keypad slots at once" (R41), on a faulted core too (R225). -/
def State.setKeypad (s : State) (k : BitVec 16) : State := { s with keys := k }

/-- The host's actions (R41). -/
inductive HostAction where
  /-- reset the core and load the ROM -/
  | boot (rom : List Byte)
  /-- one cycle-driver call -/
  | step
  /-- one delay-timer decrement, EXTERNAL_TICK only -/
  | tick
  /-- the levels of the 16 logical keys -/
  | setKeys (k : BitVec 16)
  deriving DecidableEq, Repr

/-- One host action on a core that has been started, which "runs to completion before the next begins" (R41). -/
def perform (a : HostAction) (s : State) : Result :=
  match a with
  | .boot rom => s.boot rom
  | .step => step s
  | .tick => s.tick
  | .setKeys k => .next (s.setKeypad k)

/-! ### The core as the host has it: started or not (R263, R265) -/

/-- What the host drives. "After boot" there is a core state; before the first successful `boot`, and after a refused one, "No
core state results" (R263). -/
inductive HostedCore where
  /-- No core state: a machine of this configuration whose next random byte is number `draws`. -/
  | notStarted (config : Config) (draws : Nat)
  /-- A `boot` has succeeded, and this is the state. -/
  | started (s : State)
  deriving DecidableEq, Repr

/-- The machine's configuration, started or not (R6). -/
def HostedCore.config : HostedCore → Config
  | .notStarted c _ => c
  | .started s => s.config

/-- The count of random bytes drawn, started or not (log entry 2). -/
def HostedCore.draws : HostedCore → Nat
  | .notStarted _ d => d
  | .started s => s.draws

/-- What one host action answers. Without a core state "no `step` may follow until a `boot` succeeds" (R263); `tick` and
`set_keys` have no state to act on either (log entry 21). -/
def HostedCore.perform (a : HostAction) : HostedCore → Result
  | .started s => Sys2Proof.Machine.perform a s
  | .notStarted c d =>
    match a with
    | .boot rom => bootWith c d rom
    | .step => .refused .notStarted
    | .tick => .refused .notStarted
    | .setKeys _ => .refused .notStarted

/-- What a refused action leaves: "no state is produced" by a refused `boot` (R260, R263), and any other refused action changes
nothing. -/
def HostedCore.afterRefusal (core : HostedCore) : HostAction → HostedCore
  | .boot _ => .notStarted core.config core.draws
  | .step => core
  | .tick => core
  | .setKeys _ => core

/-- The core that one host action leaves. -/
def HostedCore.after (core : HostedCore) (a : HostAction) : HostedCore :=
  match core.perform a with
  | .next t => .started t
  | .fault _ => core
  | .refused _ => core.afterRefusal a

/-- The host's actions one after another (R41): a refusal does not end the sequence, and a later `boot` can start the core
(R263). -/
def performAll (as : List HostAction) (core : HostedCore) : HostedCore := as.foldl HostedCore.after core

/-! ### The outputs (R40, R184) -/

/-- `video_out` of one cell: "2^PIXEL_BITS − 1 when on, 0 when off" (R40, R180). -/
def State.videoCell (s : State) (x y : Nat) : Nat := if s.pixel x y then 2 ^ s.config.pixelBits - 1 else 0

/-- `video_out`: the cells in row-major order (R184). -/
def State.videoOut (s : State) : List Nat :=
  (List.range s.config.H).flatMap (fun y => (List.range s.config.W).map (fun x => s.videoCell x y))

/-- `pitch` = W × PIXEL_BITS / 8 bytes per row (R40, R184; log entry 17). -/
def State.pitch (s : State) : Nat := s.config.W * s.config.pixelBits / 8

/-- `fault_out`: the fault latch, "valid bit, code, 16-bit address" (R40, R221). -/
def State.faultOut (s : State) : Option (Nat × Word) := s.fault.map (fun f => (f.code.number, f.addr))

end Sys2Proof.Machine
end

