-- ==== Sys2Proof/Safety.lean ====
section
/-! DEFINITION. What counts as a safe run, in the terms claims use (70_reset_and_hazards.md R271), and the invariant of the
model's state. -/

namespace Sys2Proof.Machine

/-- "faulted. `fault ≠ none`: a bad end" (R271). -/
abbrev State.faulted (s : State) : Prop := s.fault ≠ none

/-- A run of `n` steps that never faults: "A claim that a program runs correctly must take no fault as a premise or a
conclusion" (R271). -/
def RunsWithoutFault (n : Nat) (s : State) : Prop :=
  ∀ k, k ≤ n → ∃ t, Host.Core.run Sys2Proof.core k s = .next t ∧ ¬ t.faulted

/-- "idle at address a" (R271): not faulted, pc = a, the word at a is the jump to a, and the opcode latch holds it. -/
def State.idleAt (s : State) (a : Addr) : Prop :=
  s.fault = none ∧ s.pc = addrOperand a ∧ s.fetchWord = encode (.jp a) ∧ s.opcode = encode (.jp a)

/-- What the fault latch promises: "pc holds the address of the faulting instruction" and "no unknown-opcode report is made"
(60_exceptions.md R223). -/
abbrev State.faultLatchOk (s : State) : Prop := ∀ f ∈ s.fault, s.pc = f.addr ∧ s.unknown = none

/-- The invariant: a configuration in range (R6), memory and the video buffer in their canonical forms, within the sizes of
R60 and R31, and the fault latch's promise (R223). -/
abbrev State.Inv (s : State) : Prop :=
  s.config.wf ∧ s.mem.wf s.config.fontset ∧ s.video.wf (s.config.W * s.config.H) ∧ s.faultLatchOk

/-- The invariant of the core as the host has it: that of its state, or, where there is none, a configuration in range. -/
def HostedCore.Inv : HostedCore → Prop
  | .notStarted c _ => c.wf
  | .started s => s.Inv

end Sys2Proof.Machine
end

