-- ==== Sys2Proof/Certificates/Slice0/Obligations.lean ====
section
/-! DEFINITION. The statements for the provers. Each docstring names the rules of spec/ it formalises; where a clause rests on a
decision or an inference the spec marks as its own, the docstring names it. -/

namespace Sys2Proof.Claims

open Sys2Proof.Machine

/-! ### The vocabulary of frames -/

/-- What an instruction may change when it completes. -/
structure Touches where
  /-- the registers -/
  regs : Nibble → Bool
  /-- the index register -/
  I : Bool
  /-- the program counter -/
  pc : Bool
  /-- the stack and its pointer -/
  stack : Bool
  /-- the delay timer -/
  DT : Bool
  /-- memory -/
  mem : Bool
  /-- the video buffer -/
  video : Bool
  /-- the count of random bytes drawn -/
  draws : Bool

/-- Nothing at all. -/
def nothing : Touches := ⟨fun _ => false, false, false, false, false, false, false, false⟩

/-- The register x alone. -/
def onlyReg (x : Nibble) : Touches := { nothing with regs := fun r => r == x }

/-- The register x and VF alone. -/
def onlyRegAndVF (x : Nibble) : Touches := { nothing with regs := fun r => r == x || r == 0xF }

/-- The program counter alone. -/
def onlyPc : Touches := { nothing with pc := true }

/-- From `s` to `t` nothing has changed but what `w` names. The configuration, the keypad, the opcode latch, the fault latch
and the `unknown` port are changed by no instruction that completes. Memory is compared byte by byte. -/
def Frame (w : Touches) (s t : State) : Prop :=
  (∀ r, w.regs r = false → t.reg r = s.reg r) ∧
  (w.I = false → t.I = s.I) ∧
  (w.pc = false → t.pc = s.pc) ∧
  (w.stack = false → t.SP = s.SP ∧ t.stack = s.stack) ∧
  (w.DT = false → t.DT = s.DT) ∧
  (w.mem = false → ∀ a, t.memRead a = s.memRead a) ∧
  (w.video = false → t.video = s.video) ∧
  (w.draws = false → t.draws = s.draws) ∧
  t.config = s.config ∧ t.keys = s.keys ∧ t.opcode = s.opcode ∧ t.fault = s.fault ∧ t.unknown = s.unknown

/-- `exec` answers a next state that differs from `s` in what `w` names alone, and of which `P` holds. -/
def Completes (i : Instr) (s : State) (w : Touches) (P : State → Prop) : Prop :=
  ∃ t, exec i s = .next t ∧ Frame w s t ∧ P t

/-- `exec`, at the start of execute, answers the state of before the step with the fault latch set: `pc` is back at the fetch
address, which the latch holds, and all else is unchanged. -/
def TakesFault (i : Instr) (s : State) (c : FaultCode) : Prop :=
  exec i s = .next { s with pc := s.pc - 2, fault := some { code := c, addr := s.pc - 2 } }

/-- 1 when the condition holds and 0 otherwise, `bool(c)` of R8, as a number. -/
def flagOf (c : Bool) : Nat := if c then 1 else 0

/-- The step that a running core takes at `s` fetches the instruction `i`. -/
def Fetches (s : State) (i : Instr) : Prop := s.fault = none ∧ decode s.fetchWord = .instr i

end Sys2Proof.Claims

open Sys2Proof Sys2Proof.Machine Sys2Proof.Claims

/-! ### Encoding -/

/-- Decoding an instruction's word gives the instruction back, whatever its operands. It rests on R84 and R89; that `encode`
writes don't-care digits as 0 is the model's choice (log entry 14). -/
def Obligations.DecodeInvertsEncode : Prop := ∀ i : Instr, decode (encode i) = .instr i

/-- The don't-care digits of R85, both ways: of two words, one of which decodes to `i`, the other decodes to `i` exactly when
they agree on the bits that are not don't-cares of `i`'s row. That n of 5xyn and 9xyn is ignored is the spec's inference from R83; that every other bit is compared,
all of nnn in group 0x0 and kk in groups 0xE and 0xF among them, rests on the masks of R84 and on the spec's own decision D11. -/
def Obligations.DontCareDigitsAreIgnored : Prop :=
  ∀ (w w' : Word) (i : Instr), decode w = .instr i →
    (decode w' = .instr i ↔ w &&& i.careMask = w' &&& i.careMask)

/-- R84: "A word w selects row r when w & mask_r = match_r. Each word selects at most one row. A word that selects none is an
unknown opcode". The decoder of R89 and the table of R84 say the same of every word. -/
def Obligations.DecoderAgreesWithOpcodeMap : Prop :=
  opcodeMap.length = 34 ∧ opcodeMap.Nodup ∧
  ∀ w : Word,
    (∀ i, decode w = .instr i → ∀ r ∈ opcodeMap, (w &&& r.mask = r.pattern ↔ r = i.row)) ∧
    ((∃ why, decode w = .unknown why) ↔ ∀ r ∈ opcodeMap, w &&& r.mask ≠ r.pattern)

/-- R86: the unknown encodings, digit by digit. Its first case, the SYS-style words, is the spec's own decision D12. -/
def Obligations.UnknownWordsAreExactly : Prop :=
  ∀ w : Word, (∃ why, decode w = .unknown why) ↔
    (w.toNat < 0x1000 ∧ w.toNat ≠ 0x00E0 ∧ w.toNat ≠ 0x00EE) ∨
    (w.toNat / 0x1000 = 0x8 ∧ w.toNat % 0x10 ∈ [0x8, 0x9, 0xA, 0xB, 0xC, 0xD, 0xF]) ∨
    (w.toNat / 0x1000 = 0xE ∧ w.toNat % 0x100 ∉ [0x9E, 0xA1]) ∨
    (w.toNat / 0x1000 = 0xF ∧ w.toNat % 0x100 ∉ [0x07, 0x0A, 0x15, 0x18, 0x1E, 0x29, 0x33, 0x55, 0x65])

/-- Words of 95_test_vectors.md, at least one of each family, decode to the instruction they stand for there. -/
def Obligations.SpecWordsDecode : Prop :=
  decode 0x00E0 = .instr .cls ∧ decode 0x00EE = .instr .ret ∧ decode 0x1ABC = .instr (.jp 0xABC) ∧
  decode 0x5121 = .instr (.seReg 1 2) ∧ decode 0x6A05 = .instr (.ldImm 0xA 0x05) ∧
  decode 0x81F5 = .instr (.subReg 1 0xF) ∧ decode 0x8126 = .instr (.shr 1) ∧ decode 0xA123 = .instr (.ldI 0x123) ∧
  decode 0xC30F = .instr (.rnd 3 0x0F) ∧ decode 0xD125 = .instr (.drw 1 2 5) ∧ decode 0xE4A1 = .instr (.sknp 4) ∧
  decode 0xF265 = .instr (.loadRegs 2) ∧ decode 0x0123 = .unknown .sysWord

/-! ### The cycle driver -/

/-- R63: "w = MemRead(pc, 1) * 256 + MemRead(pc + 1, 1), with the high byte at the lower address. Each byte address is reduced
separately, so a fetch at pc mod 4096 = 0xFFF takes its low byte from 0x000". -/
def Obligations.FetchIsBigEndian : Prop :=
  ∀ s : State,
    s.fetchWord.toNat = (s.mem.read s.config.fontset (s.pc.toNat % 4096)).toNat * 256 +
      (s.mem.read s.config.fontset ((s.pc.toNat + 1) % 4096)).toNat

/-- R90, the step, case by case: a faulted core does nothing; an unknown word is reported at its fetch address; an instruction
is executed on the state whose `pc` has been advanced, and then, unless it raised a fault, the opcode latch holds the word and
the delay-timer phase has run. (That the latch is written after execute and not before is invisible: log entry 5.) -/
def Obligations.StepRunsTheDecodedInstruction : Prop :=
  ∀ s : State,
    (s.fault ≠ none → step s = .next s) ∧
    (∀ i, s.fault = none → decode s.fetchWord = .instr i →
      (∀ t, exec i { s with pc := s.pc + 2, unknown := none } = .next t → t.fault = none →
        step s = .next { t with
          opcode := s.fetchWord
          DT := if t.config.timerMode = .coupled ∧ t.DT ≠ 0 then t.DT - 1 else t.DT }) ∧
      (∀ t, exec i { s with pc := s.pc + 2, unknown := none } = .next t → t.fault ≠ none → step s = .next t)) ∧
    (∀ why, s.fault = none → decode s.fetchWord = .unknown why →
      step s = .next { s with
        pc := s.pc + 2
        opcode := s.fetchWord
        unknown := some { word := s.fetchWord, addr := s.pc }
        DT := if s.config.timerMode = .coupled ∧ s.DT ≠ 0 then s.DT - 1 else s.DT })

/-- R222, with the spec's own decision D13: after a step that fetched an unknown word the port shows the word and its fetch
address, no fault is latched, and nothing else has changed but `pc`, the opcode latch and the timer phase; and the next step of
a word that is known clears the report. -/
def Obligations.UnknownOpcodeIsReported : Prop :=
  ∀ (s : State) (why : UnknownWord), s.fault = none → decode s.fetchWord = .unknown why →
    ∃ t, step s = .next t ∧ t.unknown = some { word := s.fetchWord, addr := s.pc } ∧ t.fault = none ∧
      t.opcode = s.fetchWord ∧ t.pc = s.pc + 2 ∧
      (∀ r, t.reg r = s.reg r) ∧ t.I = s.I ∧ t.SP = s.SP ∧ t.stack = s.stack ∧ (∀ a, t.memRead a = s.memRead a) ∧
      t.video = s.video ∧ t.keys = s.keys ∧ t.config = s.config ∧ t.draws = s.draws ∧
      t.DT.toNat = (if s.config.timerMode = .coupled then s.DT.toNat - 1 else s.DT.toNat) ∧
      (∀ i u, decode t.fetchWord = .instr i → step t = .next u → u.unknown = none)

/-- No step of this core stops: every step answers a next state, and so does every instruction, in every state (R90, R221: no
encoding and no fetch traps; a fault is a state, log entry 4). -/
def Obligations.EveryStepAnswersANextState : Prop :=
  (∀ (i : Instr) (s : State), ∃ t, exec i s = .next t) ∧ ∀ s : State, ∃ t, step s = .next t

/-! ### Faults -/

/-- R223, the spec's own decision D17: a step that latches a fault leaves the state as it was before the step, except that the
latch holds the code and the fetch address (and no unknown-opcode report is shown). -/
def Obligations.FaultEntryIsPrecise : Prop :=
  ∀ (s t : State) (f : FaultRecord), s.fault = none → step s = .next t → t.fault = some f →
    f.addr = s.pc ∧ t = { s with fault := some f, unknown := none }

/-- R221 and R224, the spec's own decisions D5, D6, D9 and D10: "The fault causes are exactly those". -/
def Obligations.FaultsHaveExactlyFourCauses : Prop :=
  ∀ s t : State, s.fault = none → step s = .next t →
    (t.fault.map (·.code) = some .stackOverflow ↔ (∃ nnn, decode s.fetchWord = .instr (.call nnn)) ∧ s.SP.val = 16) ∧
    (t.fault.map (·.code) = some .stackUnderflow ↔ decode s.fetchWord = .instr .ret ∧ s.SP.val = 0) ∧
    (t.fault.map (·.code) = some .fontDigitRange ↔ ∃ x, decode s.fetchWord = .instr (.ldF x) ∧ (s.reg x).toNat > 15) ∧
    (t.fault.map (·.code) = some .keyIndexRange ↔
      ∃ x, (decode s.fetchWord = .instr (.skp x) ∨ decode s.fetchWord = .instr (.sknp x)) ∧ (s.reg x).toNat > 15)

/-- R225, the spec's own decision D17: on a faulted core `step` and `tick` leave the whole state unchanged, `set_keys` changes
the keypad alone, and `boot` clears the latch. -/
def Obligations.FaultedCoreIsHalted : Prop :=
  ∀ s : State, s.fault ≠ none →
    step s = .next s ∧
    (s.config.timerMode = .externalTick → s.tick = .next s) ∧
    (∀ k, perform (.setKeys k) s = .next { s with keys := k }) ∧
    (∀ rom : List Byte, rom.length ≤ 3584 → ∃ t, s.boot rom = .next t ∧ t.fault = none)

/-! ### Invariants -/

/-- From every state of the invariant a step gives a state of it: memory and the video buffer stay in their canonical forms
within the sizes of R60 and R31, the configuration stays in range (R6), and a latched fault goes with `pc` at the faulting
instruction and no report (R223). -/
def Obligations.StepKeepsInvariant : Prop := ∀ s t : State, s.Inv → step s = .next t → t.Inv

/-- So does every sequence of host actions (R41), refused ones among them, whether the core has been started or not. -/
def Obligations.HostActionsKeepInvariant : Prop :=
  ∀ (as : List HostAction) (core : HostedCore), core.Inv → (performAll as core).Inv

/-- The invariant holds right after reset. -/
def Obligations.ResetMeetsInvariant : Prop := State.reset.Inv

/-! ### Reset, boot and the host's other actions -/

/-- R260, R262 and R263: what `boot` leaves when the ROM fits, component by component, for every configuration. (`fault <- none`
is the spec's own decision D17; that the `unknown` port shows nothing is the model's reading, log entry 3.) -/
def Obligations.BootEstablishesTheResetState : Prop :=
  ∀ (s : State) (rom : List Byte), rom.length ≤ 3584 →
    ∃ t, s.boot rom = .next t ∧
      t.pc = 0x200 ∧ t.I = 0 ∧ t.SP = 0 ∧ t.DT = 0 ∧ t.opcode = 0 ∧ t.fault = none ∧ t.unknown = none ∧
      t.config = s.config ∧
      (∀ r, t.reg r = 0) ∧ (∀ (j : Nat) (h : j < 16), t.stack[j] = 0) ∧
      (∀ x y, x < t.config.W → y < t.config.H → t.pixel x y = false) ∧ (∀ k, k < 16 → t.key k = false) ∧
      (∀ (j : Nat) (h : j < 80) (p : Word), p.toNat % 4096 = 0x050 + j → t.memRead p = s.config.fontset[j]) ∧
      (∀ (j : Nat) (h : j < rom.length) (p : Word), p.toNat % 4096 = 0x200 + j → t.memRead p = rom[j]) ∧
      (∀ p : Word, (∀ j, j < 80 → p.toNat % 4096 ≠ 0x050 + j) → (∀ j, j < rom.length → p.toNat % 4096 ≠ 0x200 + j) →
        t.memRead p = 0)

/-- R263, the spec's own decision D25: an oversized ROM is refused, whatever the state, and the core is then not started,
whatever it was. (That the draw count is kept is the model's choice: log entry 12.) -/
def Obligations.BootRefusesAnOversizedRom : Prop :=
  ∀ rom : List Byte, rom.length > 3584 →
    (∀ s : State, s.boot rom = .refused .romTooLarge) ∧
    ∀ core : HostedCore, core.perform (.boot rom) = .refused .romTooLarge ∧
      core.after (.boot rom) = .notStarted core.config core.draws

/-- R263, the spec's own decision D25: "no `step` may follow until a `boot` succeeds". On a core that is not started every list
of actions without a `boot` that fits leaves it not started, each `step` of them refused; and whatever came before, a `boot` that
fits starts it, in the state `boot` gives, and the next `step` is that state's. (That `tick` and `set_keys` are refused there too
is the model's choice: log entry 21.) -/
def Obligations.NoStepUntilABootSucceeds : Prop :=
  ∀ (c : Config) (d : Nat) (as : List HostAction), (∀ rom : List Byte, .boot rom ∈ as → rom.length > 3584) →
    let core := performAll as (.notStarted c d)
    core = .notStarted c d ∧
    (core.perform .step = .refused .notStarted ∧ core.perform .tick = .refused .notStarted ∧
      ∀ k, core.perform (.setKeys k) = .refused .notStarted) ∧
    ∀ rom : List Byte, rom.length ≤ 3584 → ∀ s : State, s.config = c → s.draws = d →
      ∃ t, s.boot rom = .next t ∧ performAll (as ++ [.boot rom]) (.notStarted c d) = .started t ∧
        (HostedCore.started t).perform .step = step t ∧
        ∃ u, step t = .next u ∧ performAll (as ++ [.boot rom, .step]) (.notStarted c d) = .started u

/-- State.reset is the state `boot` leaves with an empty ROM on a machine of the default configuration (log entry 10). -/
def Obligations.ResetIsBootOfAnEmptyRom : Prop :=
  ∀ s : State, s.config = defaultConfig → s.draws = 0 → s.boot [] = .next State.reset

/-- R231, the spec's own decision D16: in EXTERNAL_TICK mode a tick of a running core decrements a nonzero DT and changes
nothing else. That `tick` is refused in COUPLED mode is the model's choice (log entry 11). -/
def Obligations.TickDecrementsTheDelayTimer : Prop :=
  ∀ s : State,
    (s.config.timerMode = .externalTick → s.fault = none →
      ∃ b : Byte, s.tick = .next { s with DT := b } ∧ b.toNat = s.DT.toNat - 1) ∧
    (s.config.timerMode = .coupled → s.tick = .refused .tickAbsent)

/-- R41, R236: `set_keys(k)` gives every slot its bit of k and changes nothing else. -/
def Obligations.SetKeysReplacesTheKeypad : Prop :=
  ∀ (s : State) (k : BitVec 16),
    ∃ t, perform (.setKeys k) s = .next t ∧ (∀ j, j < 16 → t.key j = k.getLsbD j) ∧ t = { s with keys := t.keys }

/-! ### The delay timer -/

/-- R230: in COUPLED mode a step of a running core that does not fault ends with the decrement of a nonzero DT, which "stops at
0 and never wraps"; FX15 gives the decrement its own value. -/
def Obligations.CoupledStepDecrementsTheDelayTimer : Prop :=
  ∀ s t : State, s.fault = none → s.config.timerMode = .coupled → step s = .next t → t.fault = none →
    (∀ x, decode s.fetchWord = .instr (.ldDT x) → t.DT.toNat = (s.reg x).toNat - 1) ∧
    ((∀ x, decode s.fetchWord ≠ .instr (.ldDT x)) → t.DT.toNat = s.DT.toNat - 1)

/-- R231 and R232, the spec's own decision D16: "In EXTERNAL_TICK mode, DT changes only at FX15 and at ticks." -/
def Obligations.ExternalTickStepKeepsTheDelayTimer : Prop :=
  ∀ s t : State, s.fault = none → s.config.timerMode = .externalTick → step s = .next t →
    (∀ x, decode s.fetchWord = .instr (.ldDT x) → t.DT = s.reg x) ∧
    ((∀ x, decode s.fetchWord ≠ .instr (.ldDT x)) → t.DT = s.DT)

/-! ### Who writes what: rules of the whole machine -/

namespace Sys2Proof.Claims

/-- The "writes" and "flag" columns of the register-access table R23. -/
def writesReg (i : Instr) (r : Nibble) : Bool :=
  match i with
  | .cls | .ret | .jp _ | .call _ | .seImm _ _ | .sneImm _ _ | .seReg _ _ | .sneReg _ _ | .ldI _ | .jpV0 _ => false
  | .ldImm x _ | .addImm x _ | .ldReg x _ | .orReg x _ | .andReg x _ | .xorReg x _ | .rnd x _ => r == x
  | .addReg x _ | .subReg x _ | .subnReg x _ | .shr x | .shl x => r == 0xF || r == x
  | .drw _ _ _ => r == 0xF
  | .skp _ | .sknp _ | .ldDT _ | .ldST _ | .addI _ | .ldF _ | .ldB _ | .storeRegs _ => false
  | .ldFromDT x | .ldKey x => r == x
  | .loadRegs x => decide (r.toNat ≤ x.toNat)

end Sys2Proof.Claims

/-- R23 (an inference the spec draws from its instruction rules): a step writes no register but those its instruction's row
names, and a step of an unknown word writes none. -/
def Obligations.StepWritesOnlyTheNamedRegisters : Prop :=
  ∀ (s t : State) (r : Nibble), step s = .next t →
    (∀ i, decode s.fetchWord = .instr i → writesReg i r = false → t.reg r = s.reg r) ∧
    (∀ why, decode s.fetchWord = .unknown why → t.reg r = s.reg r)

/-- R25, with the spec's own decision D21: I is "Written by: ANNN (R160), FX1E (R161) and FX29 (R162). Nothing else writes
it." -/
def Obligations.OnlyThreeInstructionsWriteI : Prop :=
  ∀ s t : State, step s = .next t → t.I ≠ s.I →
    (∃ nnn, decode s.fetchWord = .instr (.ldI nnn)) ∨ (∃ x, decode s.fetchWord = .instr (.addI x)) ∨
    (∃ x, decode s.fetchWord = .instr (.ldF x))

/-- R26 and R27: "Only CALL (R113) writes an entry, at index SP"; only CALL and RET move SP, by one. (That RET clears nothing is
the spec's inference from R111.) -/
def Obligations.OnlyCallAndReturnMoveTheStack : Prop :=
  ∀ s t : State, step s = .next t →
    (t.SP ≠ s.SP → ((∃ nnn, decode s.fetchWord = .instr (.call nnn)) ∧ t.SP.val = s.SP.val + 1) ∨
      (decode s.fetchWord = .instr .ret ∧ t.SP.val + 1 = s.SP.val)) ∧
    (∀ (j : Nat) (h : j < 16), t.stack[j] ≠ s.stack[j] →
      (∃ nnn, decode s.fetchWord = .instr (.call nnn)) ∧ j = s.SP.val)

/-- R31: the video buffer is "Written by: CLS (R181) and DRW (R182)." -/
def Obligations.OnlyClearAndDrawWriteTheScreen : Prop :=
  ∀ s t : State, step s = .next t → t.video ≠ s.video →
    decode s.fetchWord = .instr .cls ∨ ∃ x y n, decode s.fetchWord = .instr (.drw x y n)

/-- R65: the only steps that write memory are FX33, three bytes from I, and FX55, x + 1 bytes from I. -/
def Obligations.OnlyBcdAndBlockStoreWriteMemory : Prop :=
  ∀ (s t : State) (p : Word), step s = .next t → t.memRead p ≠ s.memRead p →
    (∃ x, decode s.fetchWord = .instr (.ldB x) ∧ ∃ k, k < 3 ∧ p.toNat % 4096 = (s.I.toNat + k) % 4096) ∨
    (∃ x, decode s.fetchWord = .instr (.storeRegs x) ∧ ∃ k, k ≤ x.toNat ∧ p.toNat % 4096 = (s.I.toNat + k) % 4096)

/-- R30 and R6: no step writes the keypad ("No instruction writes it") or the configuration. -/
def Obligations.StepKeepsKeypadAndConfiguration : Prop :=
  ∀ s t : State, step s = .next t → t.keys = s.keys ∧ t.config = s.config

/-! ### Control flow -/

/-- R112. -/
def Obligations.JumpSetsPc : Prop :=
  ∀ (nnn : Addr) (s : State), decode (0x1#4 ++ nnn) = .instr (.jp nnn) ∧
    Completes (.jp nnn) s onlyPc fun t => t.pc.toNat = nnn.toNat

/-- R113; the overflow is the spec's own decision D5. `pc` at the start of execute is the address of the instruction after the
CALL. -/
def Obligations.CallPushesAndJumps : Prop :=
  ∀ (nnn : Addr) (s : State), decode (0x2#4 ++ nnn) = .instr (.call nnn) ∧
    (s.SP.val < 16 → Completes (.call nnn) s { nothing with pc := true, stack := true } fun t =>
      t.pc.toNat = nnn.toNat ∧ t.SP.val = s.SP.val + 1 ∧
      ∀ (j : Nat) (h : j < 16), t.stack[j] = if j = s.SP.val then s.pc else s.stack[j]) ∧
    (s.SP.val = 16 → TakesFault (.call nnn) s .stackOverflow)

/-- R111; the underflow is the spec's own decision D6, that the entry stays is its inference in R26. -/
def Obligations.ReturnPops : Prop :=
  ∀ s : State, decode 0x00EE = .instr .ret ∧
    (∀ (j : Nat) (h : j < 16), s.SP.val = j + 1 →
      Completes .ret s { nothing with pc := true, stack := true } fun t =>
        t.pc = s.stack[j] ∧ t.SP.val = j ∧ t.stack = s.stack) ∧
    (s.SP.val = 0 → TakesFault .ret s .stackUnderflow)

/-- R118: the sum keeps its 16 bits, and the next fetch reduces it (the spec's own decisions D2 and D3). -/
def Obligations.JumpWithOffsetAddsV0 : Prop :=
  ∀ (nnn : Addr) (s : State), decode (0xB#4 ++ nnn) = .instr (.jpV0 nnn) ∧
    Completes (.jpV0 nnn) s onlyPc fun t => t.pc.toNat = (s.reg 0).toNat + nnn.toNat

/-- R114 and R115: the skip is `pc <- (pc + 2) mod 2^16` on the advanced `pc`. -/
def Obligations.SkipsOnImmediate : Prop :=
  ∀ (x : Nibble) (kk : Byte) (s : State),
    decode (0x3#4 ++ x ++ kk) = .instr (.seImm x kk) ∧ decode (0x4#4 ++ x ++ kk) = .instr (.sneImm x kk) ∧
    Completes (.seImm x kk) s onlyPc (fun t =>
      t.pc.toNat = if s.reg x = kk then (s.pc.toNat + 2) % 65536 else s.pc.toNat) ∧
    Completes (.sneImm x kk) s onlyPc (fun t =>
      t.pc.toNat = if s.reg x ≠ kk then (s.pc.toNat + 2) % 65536 else s.pc.toNat)

/-- R116 and R117, for every low digit n (in R116 the spec's inference from R83). -/
def Obligations.SkipsOnRegisters : Prop :=
  ∀ (x y n : Nibble) (s : State),
    decode (0x5#4 ++ x ++ y ++ n) = .instr (.seReg x y) ∧ decode (0x9#4 ++ x ++ y ++ n) = .instr (.sneReg x y) ∧
    Completes (.seReg x y) s onlyPc (fun t =>
      t.pc.toNat = if s.reg x = s.reg y then (s.pc.toNat + 2) % 65536 else s.pc.toNat) ∧
    Completes (.sneReg x y) s onlyPc (fun t =>
      t.pc.toNat = if s.reg x ≠ s.reg y then (s.pc.toNat + 2) % 65536 else s.pc.toNat)

/-! ### Registers and arithmetic -/

/-- R130 and R131: no flag is written. -/
def Obligations.ImmediateLoadAndAdd : Prop :=
  ∀ (x : Nibble) (kk : Byte) (s : State),
    decode (0x6#4 ++ x ++ kk) = .instr (.ldImm x kk) ∧ decode (0x7#4 ++ x ++ kk) = .instr (.addImm x kk) ∧
    Completes (.ldImm x kk) s (onlyReg x) (fun t => t.reg x = kk) ∧
    Completes (.addImm x kk) s (onlyReg x) (fun t => (t.reg x).toNat = ((s.reg x).toNat + kk.toNat) % 256)

/-- R132 to R135: no flag is written. The results are given bit by bit. -/
def Obligations.TransferAndBitwise : Prop :=
  ∀ (x y : Nibble) (s : State),
    decode (0x8#4 ++ x ++ y ++ 0x0#4) = .instr (.ldReg x y) ∧ decode (0x8#4 ++ x ++ y ++ 0x1#4) = .instr (.orReg x y) ∧
    decode (0x8#4 ++ x ++ y ++ 0x2#4) = .instr (.andReg x y) ∧ decode (0x8#4 ++ x ++ y ++ 0x3#4) = .instr (.xorReg x y) ∧
    Completes (.ldReg x y) s (onlyReg x) (fun t => t.reg x = s.reg y) ∧
    Completes (.orReg x y) s (onlyReg x) (fun t =>
      ∀ b, b < 8 → (t.reg x).getLsbD b = ((s.reg x).getLsbD b || (s.reg y).getLsbD b)) ∧
    Completes (.andReg x y) s (onlyReg x) (fun t =>
      ∀ b, b < 8 → (t.reg x).getLsbD b = ((s.reg x).getLsbD b && (s.reg y).getLsbD b)) ∧
    Completes (.xorReg x y) s (onlyReg x) (fun t =>
      ∀ b, b < 8 → (t.reg x).getLsbD b = ((s.reg x).getLsbD b ^^ (s.reg y).getLsbD b))

/-- R136. What x = 0xF gives is the spec's own decision D7. -/
def Obligations.AddWithCarry : Prop :=
  ∀ (x y : Nibble) (s : State), decode (0x8#4 ++ x ++ y ++ 0x4#4) = .instr (.addReg x y) ∧
    Completes (.addReg x y) s (onlyRegAndVF x) fun t =>
      (t.reg x).toNat = ((s.reg x).toNat + (s.reg y).toNat) % 256 ∧
      (x ≠ 0xF → (t.reg 0xF).toNat = flagOf (decide ((s.reg x).toNat + (s.reg y).toNat > 255)))

/-- R137. The three cases that name VF are the spec's own decision D7. -/
def Obligations.SubtractWithNotBorrow : Prop :=
  ∀ (x y : Nibble) (s : State), decode (0x8#4 ++ x ++ y ++ 0x5#4) = .instr (.subReg x y) ∧
    Completes (.subReg x y) s (onlyRegAndVF x) fun t =>
      let f := flagOf (decide ((s.reg x).toNat > (s.reg y).toNat))
      (x ≠ 0xF → y ≠ 0xF →
        (t.reg 0xF).toNat = f ∧ (t.reg x).toNat = ((s.reg x).toNat + 256 - (s.reg y).toNat) % 256) ∧
      (x ≠ 0xF → y = 0xF → (t.reg 0xF).toNat = f ∧ (t.reg x).toNat = ((s.reg x).toNat + 256 - f) % 256) ∧
      (x = 0xF → y ≠ 0xF → (t.reg 0xF).toNat = (f + 256 - (s.reg y).toNat) % 256) ∧
      (x = 0xF → y = 0xF → t.reg 0xF = 0)

/-- R139. The three cases that name VF are the spec's own decision D7. -/
def Obligations.ReverseSubtractWithNotBorrow : Prop :=
  ∀ (x y : Nibble) (s : State), decode (0x8#4 ++ x ++ y ++ 0x7#4) = .instr (.subnReg x y) ∧
    Completes (.subnReg x y) s (onlyRegAndVF x) fun t =>
      let f := flagOf (decide ((s.reg y).toNat > (s.reg x).toNat))
      (x ≠ 0xF → y ≠ 0xF →
        (t.reg 0xF).toNat = f ∧ (t.reg x).toNat = ((s.reg y).toNat + 256 - (s.reg x).toNat) % 256) ∧
      (x ≠ 0xF → y = 0xF → (t.reg 0xF).toNat = f ∧ (t.reg x).toNat = (f + 256 - (s.reg x).toNat) % 256) ∧
      (x = 0xF → y ≠ 0xF → (t.reg 0xF).toNat = ((s.reg y).toNat + 256 - f) % 256) ∧
      (x = 0xF → y = 0xF → t.reg 0xF = 0)

/-- R138 and R140, for every y digit of the word: "Vy is neither read nor written". What x = 0xF gives is the spec's own decision
D7. -/
def Obligations.ShiftsByOne : Prop :=
  ∀ (x y : Nibble) (s : State),
    decode (0x8#4 ++ x ++ y ++ 0x6#4) = .instr (.shr x) ∧ decode (0x8#4 ++ x ++ y ++ 0xE#4) = .instr (.shl x) ∧
    Completes (.shr x) s (onlyRegAndVF x) (fun t =>
      (x ≠ 0xF → (t.reg 0xF).toNat = (s.reg x).toNat % 2 ∧ (t.reg x).toNat = (s.reg x).toNat / 2) ∧
      (x = 0xF → t.reg 0xF = 0)) ∧
    Completes (.shl x) s (onlyRegAndVF x) (fun t =>
      (x ≠ 0xF → (t.reg 0xF).toNat = (s.reg x).toNat / 128 ∧ (t.reg x).toNat = 2 * (s.reg x).toNat % 256) ∧
      (x = 0xF → (t.reg 0xF).toNat = 2 * ((s.reg 0xF).toNat / 128)))

/-- R141, with the spec's own decision D14: the result is the random byte, a free value of which nothing is known, masked by kk;
so bits clear in kk are clear in the result, and a draw is used up. -/
def Obligations.RandomIsMasked : Prop :=
  ∀ (x : Nibble) (kk : Byte) (s : State), decode (0xC#4 ++ x ++ kk) = .instr (.rnd x kk) ∧
    Completes (.rnd x kk) s { onlyReg x with draws := true } fun t =>
      t.draws = s.draws + 1 ∧
      ∀ b, b < 8 → (t.reg x).getLsbD b = ((Config.randomByte s.draws).getLsbD b && kk.getLsbD b)

/-! ### The index register and memory -/

/-- R160: "Bits 15 to 12 of I become 0." -/
def Obligations.LoadIndex : Prop :=
  ∀ (nnn : Addr) (s : State), decode (0xA#4 ++ nnn) = .instr (.ldI nnn) ∧
    Completes (.ldI nnn) s { nothing with I := true } fun t => t.I.toNat = nnn.toNat

/-- R161: the sum mod 2^16, no flag (the width kept is the spec's own decision D4). -/
def Obligations.AddToIndex : Prop :=
  ∀ (x : Nibble) (s : State), decode (0xF#4 ++ x ++ 0x1E#8) = .instr (.addI x) ∧
    Completes (.addI x) s { nothing with I := true } fun t => t.I.toNat = (s.I.toNat + (s.reg x).toNat) % 65536

/-- R162; the fault is the spec's own decision D9. -/
def Obligations.LoadFontAddress : Prop :=
  ∀ (x : Nibble) (s : State), decode (0xF#4 ++ x ++ 0x29#8) = .instr (.ldF x) ∧
    ((s.reg x).toNat ≤ 15 →
      Completes (.ldF x) s { nothing with I := true } fun t => t.I.toNat = 0x050 + 5 * (s.reg x).toNat) ∧
    ((s.reg x).toNat > 15 → TakesFault (.ldF x) s .fontDigitRange)

/-- R163: the three digits land at (I + k) mod 4096 for k = 0, 1, 2, every other byte reads as before, and I is unchanged. -/
def Obligations.BcdStoresThreeDigits : Prop :=
  ∀ (x : Nibble) (s : State), decode (0xF#4 ++ x ++ 0x33#8) = .instr (.ldB x) ∧
    (∀ k, k < 3 → portAddr (s.indexed k) = (s.I.toNat + k) % 4096) ∧
    Completes (.ldB x) s { nothing with mem := true } fun t => ∀ p : Word,
      (portAddr p = portAddr (s.indexed 0) → (t.memRead p).toNat = (s.reg x).toNat / 100) ∧
      (portAddr p = portAddr (s.indexed 1) → (t.memRead p).toNat = (s.reg x).toNat / 10 % 10) ∧
      (portAddr p = portAddr (s.indexed 2) → (t.memRead p).toNat = (s.reg x).toNat % 10) ∧
      ((∀ k, k < 3 → portAddr p ≠ portAddr (s.indexed k)) → t.memRead p = s.memRead p)

/-- R164: register k lands at (I + k) mod 4096 for k = 0 to x, every other byte reads as before. (That I is unchanged is the
spec's own decision D21.) -/
def Obligations.BlockStore : Prop :=
  ∀ (x : Nibble) (s : State), decode (0xF#4 ++ x ++ 0x55#8) = .instr (.storeRegs x) ∧
    (∀ k, k ≤ x.toNat → portAddr (s.indexed k) = (s.I.toNat + k) % 4096) ∧
    Completes (.storeRegs x) s { nothing with mem := true } fun t => ∀ p : Word,
      (∀ r : Nibble, r.toNat ≤ x.toNat → portAddr p = portAddr (s.indexed r.toNat) → t.memRead p = s.reg r) ∧
      ((∀ k, k ≤ x.toNat → portAddr p ≠ portAddr (s.indexed k)) → t.memRead p = s.memRead p)

/-- R165: register r takes the byte at (I + r) mod 4096 for r = 0 to x, the registers above x are unchanged. (That I is unchanged
is the spec's own decision D21.) -/
def Obligations.BlockLoad : Prop :=
  ∀ (x : Nibble) (s : State), decode (0xF#4 ++ x ++ 0x65#8) = .instr (.loadRegs x) ∧
    (∀ k, k ≤ x.toNat → portAddr (s.indexed k) = (s.I.toNat + k) % 4096) ∧
    Completes (.loadRegs x) s { nothing with regs := fun r => decide (r.toNat ≤ x.toNat) } fun t =>
      ∀ r : Nibble, r.toNat ≤ x.toNat → t.reg r = s.memRead (s.indexed r.toNat)

/-! ### Display -/

/-- R181. -/
def Obligations.ClearScreen : Prop :=
  ∀ s : State, decode 0x00E0 = .instr .cls ∧
    Completes .cls s { nothing with video := true } fun t =>
      ∀ x y, x < s.config.W → y < s.config.H → t.pixel x y = false

namespace Sys2Proof.Claims

/-- Column px and row py lie under a set bit of the n-row sprite at I, drawn from (V[x] mod W, V[y] mod H): bit 7 of a row is
its leftmost pixel (R182). -/
def covered (s : State) (x y n : Nibble) (px py : Nat) : Bool :=
  let ox := (s.reg x).toNat % s.config.W
  let oy := (s.reg y).toNat % s.config.H
  decide (ox ≤ px ∧ px < ox + 8 ∧ oy ≤ py ∧ py < oy + n.toNat) &&
    (s.memRead (s.indexed (py - oy))).getLsbD (7 - (px - ox))

/-- One of the set sprite bits falls on a cell of the screen that is on. -/
def Collides (s : State) (x y n : Nibble) : Prop :=
  ∃ px py, px < s.config.W ∧ py < s.config.H ∧ covered s x y n px py = true ∧ s.pixel px py = true

end Sys2Proof.Claims

/-- R182, as R183 sums it up (an inference the spec draws from R182): each cell of the screen under a set sprite bit has flipped,
every other cell is as before, nothing wraps, and VF is 1 exactly when one of the flipped cells was on. That the coordinates are
read before VF is cleared is the spec's own decision D8. -/
def Obligations.DrawFlipsTheCoveredCells : Prop :=
  ∀ (x y n : Nibble) (s : State), decode (0xD#4 ++ x ++ y ++ n) = .instr (.drw x y n) ∧
    Completes (.drw x y n) s { nothing with regs := fun r => r == 0xF, video := true } fun t =>
      (∀ px py, px < s.config.W → py < s.config.H → t.pixel px py = (s.pixel px py ^^ covered s x y n px py)) ∧
      (Collides s x y n → t.reg 0xF = 1) ∧ (¬ Collides s x y n → t.reg 0xF = 0)

/-- R183, the document's "Draw idempotence under double-XOR" (an inference the spec draws from R182): the same sprite drawn
twice at the same coordinates, with no other change of the screen, the sprite or the coordinates between, restores every cell,
and the second draw sets VF exactly when the first left one of its cells on. -/
def Obligations.DrawTwiceRestoresTheScreen : Prop :=
  ∀ (x y n : Nibble) (s t t' u : State), exec (.drw x y n) s = .next t →
    t'.config = t.config → t'.video = t.video → t'.I = t.I → (∀ a, t'.memRead a = t.memRead a) →
    t'.reg x = s.reg x → t'.reg y = s.reg y →
    exec (.drw x y n) t' = .next u →
      (∀ px py, px < s.config.W → py < s.config.H → u.pixel px py = s.pixel px py) ∧
      (u.reg 0xF = 1 ↔ ∃ px py, px < s.config.W ∧ py < s.config.H ∧ covered s x y n px py = true ∧ t.pixel px py = true) ∧
      (u.reg 0xF = 1 ∨ u.reg 0xF = 0)

/-- R184 and R40, the spec's own decision D23 for the order and the pitch: the video port. -/
def Obligations.VideoPortShowsTheCells : Prop :=
  ∀ s : State, s.videoOut.length = s.config.W * s.config.H ∧ s.pitch = s.config.W * s.config.pixelBits / 8 ∧
    ∀ x y, x < s.config.W → y < s.config.H →
      s.videoOut[y * s.config.W + x]? = some (if s.pixel x y then 2 ^ s.config.pixelBits - 1 else 0)

/-! ### Keypad and timer -/

/-- R200 and R201; the fault is the spec's own decision D10. -/
def Obligations.SkipsOnKey : Prop :=
  ∀ (x : Nibble) (s : State),
    decode (0xE#4 ++ x ++ 0x9E#8) = .instr (.skp x) ∧ decode (0xE#4 ++ x ++ 0xA1#8) = .instr (.sknp x) ∧
    ((s.reg x).toNat ≤ 15 →
      Completes (.skp x) s onlyPc (fun t =>
        t.pc.toNat = if s.key (s.reg x).toNat = true then (s.pc.toNat + 2) % 65536 else s.pc.toNat) ∧
      Completes (.sknp x) s onlyPc (fun t =>
        t.pc.toNat = if s.key (s.reg x).toNat = true then s.pc.toNat else (s.pc.toNat + 2) % 65536)) ∧
    ((s.reg x).toNat > 15 → TakesFault (.skp x) s .keyIndexRange ∧ TakesFault (.sknp x) s .keyIndexRange)

/-- R202: the value read is DT before the step's decrement, which then applies in COUPLED mode. -/
def Obligations.LoadFromDelayTimer : Prop :=
  ∀ (x : Nibble) (s : State), decode (0xF#4 ++ x ++ 0x07#8) = .instr (.ldFromDT x) ∧
    Completes (.ldFromDT x) s (onlyReg x) (fun t => t.reg x = s.DT) ∧
    (Fetches s (.ldFromDT x) → s.config.timerMode = .coupled →
      ∃ t, step s = .next t ∧ t.reg x = s.DT ∧ t.DT.toNat = s.DT.toNat - 1)

/-- R203: the lowest pressed key, or `pc` back at the fetch address. (That a key already held counts is the spec's own decision
D20.) -/
def Obligations.KeyWaitTakesTheLowestKey : Prop :=
  ∀ (x : Nibble) (s : State), decode (0xF#4 ++ x ++ 0x0A#8) = .instr (.ldKey x) ∧
    (∀ k, k < 16 → s.key k = true → (∀ j, j < k → s.key j = false) →
      Completes (.ldKey x) s (onlyReg x) fun t => (t.reg x).toNat = k) ∧
    ((∀ k, k < 16 → s.key k = false) →
      Completes (.ldKey x) s onlyPc (fun t => t.pc = s.pc - 2) ∧
      (Fetches s (.ldKey x) → ∃ t, step s = .next t ∧ t.pc = s.pc ∧ ∀ r, t.reg r = s.reg r))

/-- R204: DT takes the register's value. (What the same step's decrement makes of it is the spec's inference from R90.) -/
def Obligations.SetDelayTimer : Prop :=
  ∀ (x : Nibble) (s : State), decode (0xF#4 ++ x ++ 0x15#8) = .instr (.ldDT x) ∧
    Completes (.ldDT x) s { nothing with DT := true } fun t => t.DT = s.reg x

/-- R205, with the spec's own decision D15: a decoded instruction that changes nothing, so a step that fetches it reports nothing
and leaves `pc` two further. -/
def Obligations.SetSoundTimerDoesNothing : Prop :=
  ∀ (x : Nibble) (s : State), decode (0xF#4 ++ x ++ 0x18#8) = .instr (.ldST x) ∧
    exec (.ldST x) s = .next s ∧
    (Fetches s (.ldST x) → ∃ t, step s = .next t ∧ t.pc = s.pc + 2 ∧ t.unknown = none ∧ ∀ r, t.reg r = s.reg r)

/-! ### The end of a run -/

/-- R271, the spec's own decision D32 and its inference from R112 and R230: a self-jump reaches the idle state in one step, and
there every further step changes nothing, or DT alone in COUPLED mode until it is 0. -/
def Obligations.SelfJumpIdles : Prop :=
  ∀ (s : State) (a : Addr),
    (s.fault = none → s.pc.toNat = a.toNat → s.fetchWord = 0x1#4 ++ a →
      ∃ t, step s = .next t ∧ t.idleAt a ∧ t.unknown = none) ∧
    (s.idleAt a → s.unknown = none →
      (s.DT = 0 ∨ s.config.timerMode = .externalTick → step s = .next s) ∧
      (s.config.timerMode = .coupled → s.DT ≠ 0 → step s = .next { s with DT := s.DT - 1 }))
end

