-- ==== Sys2Proof/Laws/Decode.lean ====
section
/-! SUPPORT. The fields of a word that is put together from fields (30_encoding.md R81), one lemma per field and shape of
word. -/

namespace Sys2Proof

/-! ### Slices of two strings put together -/

theorem slice_of_high {v w : Nat} (a : BitVec v) (b : BitVec w) (k len : Nat) :
    BitVec.extractLsb' (w + k) len (a ++ b) = BitVec.extractLsb' k len a := by
  ext i hi
  simp only [BitVec.getElem_extractLsb', BitVec.getLsbD_append]
  rw [if_neg (by omega)]
  congr 1; omega

theorem slice_of_low {v w : Nat} (a : BitVec v) (b : BitVec w) {k len : Nat} (h : k + len ≤ w) :
    BitVec.extractLsb' k len (a ++ b) = BitVec.extractLsb' k len b := by
  ext i hi
  simp only [BitVec.getElem_extractLsb', BitVec.getLsbD_append]
  rw [if_pos (by omega)]

theorem slice_whole {w : Nat} (a : BitVec w) : BitVec.extractLsb' 0 w a = a := by
  ext i hi; simp

/-! ### A word `op | nnn` -/

@[simp] theorem fieldOp_nnn (a : Nibble) (nnn : Addr) : fieldOp (a ++ nnn) = a :=
  (slice_of_high a nnn 0 4).trans (slice_whole a)

@[simp] theorem fieldNNN_nnn (a : Nibble) (nnn : Addr) : fieldNNN (a ++ nnn) = nnn :=
  (slice_of_low a nnn (by omega)).trans (slice_whole nnn)

/-! ### A word `op | x | kk` -/

@[simp] theorem fieldOp_kk (a x : Nibble) (kk : Byte) : fieldOp (a ++ x ++ kk) = a :=
  (slice_of_high (a ++ x) kk 4 4).trans ((slice_of_high a x 0 4).trans (slice_whole a))

@[simp] theorem fieldX_kk (a x : Nibble) (kk : Byte) : fieldX (a ++ x ++ kk) = x :=
  (slice_of_high (a ++ x) kk 0 4).trans ((slice_of_low a x (by omega)).trans (slice_whole x))

@[simp] theorem fieldKK_kk (a x : Nibble) (kk : Byte) : fieldKK (a ++ x ++ kk) = kk :=
  (slice_of_low (a ++ x) kk (by omega)).trans (slice_whole kk)

/-! ### A word `op | x | y | n` -/

@[simp] theorem fieldOp_xyn (a x y n : Nibble) : fieldOp (a ++ x ++ y ++ n) = a :=
  (slice_of_high (a ++ x ++ y) n 8 4).trans
    ((slice_of_high (a ++ x) y 4 4).trans ((slice_of_high a x 0 4).trans (slice_whole a)))

@[simp] theorem fieldX_xyn (a x y n : Nibble) : fieldX (a ++ x ++ y ++ n) = x :=
  (slice_of_high (a ++ x ++ y) n 4 4).trans
    ((slice_of_high (a ++ x) y 0 4).trans ((slice_of_low a x (by omega)).trans (slice_whole x)))

@[simp] theorem fieldY_xyn (a x y n : Nibble) : fieldY (a ++ x ++ y ++ n) = y :=
  (slice_of_high (a ++ x ++ y) n 0 4).trans ((slice_of_low (a ++ x) y (by omega)).trans (slice_whole y))

@[simp] theorem fieldN_xyn (a x y n : Nibble) : fieldN (a ++ x ++ y ++ n) = n :=
  (slice_of_low (a ++ x ++ y) n (by omega)).trans (slice_whole n)

end Sys2Proof
end

