-- ==== Sys2Proof/Laws/Memory.lean ====
section
/-! SUPPORT. The laws of memory as data: what a read gives after a write, and that every operation keeps the canonical form. -/

namespace Sys2Proof.Machine

theorem Memory.lookup_insert (m : Memory) (a k : Nat) (b : Byte) :
    (m.insert a b).lookup k = if k = a then some b else m.lookup k := by
  induction m with
  | nil => simp [Memory.insert, Memory.lookup, eq_comm]
  | cons c rest ih =>
    obtain ⟨j, d⟩ := c
    simp only [Memory.insert]
    split
    · simp [Memory.lookup, eq_comm]
    · split
      · subst_vars
        simp only [Memory.lookup]
        split <;> simp_all [eq_comm]
      · simp only [Memory.lookup, ih]
        by_cases hj : j = k
        · have hne : k ≠ a := by omega
          simp [hj, hne]
        · simp [hj]

theorem Memory.lookup_erase (m : Memory) (a k : Nat) :
    (m.erase a).lookup k = if k = a then none else m.lookup k := by
  induction m with
  | nil => simp [Memory.erase, Memory.lookup]
  | cons c rest ih =>
    obtain ⟨j, d⟩ := c
    simp only [Memory.erase, List.filter_cons] at ih ⊢
    by_cases hj : j = a
    · subst hj
      simp only [bne_self_eq_false, Bool.false_eq_true, if_false, ih, Memory.lookup]
      by_cases hk : k = j
      · simp [hk]
      · simp [hk, Ne.symm hk]
    · simp only [bne_iff_ne, ne_eq, hj, not_false_eq_true, if_true, Memory.lookup, ih]
      by_cases hk : j = k
      · subst hk; simp [hj]
      · simp [hk]

/-- Read after write: the byte named reads as written, every other byte as before (20_memory.md R66). -/
theorem Memory.read_write (font : Fontset) (m : Memory) (a k : Nat) (b : Byte) :
    (m.write font a b).read font k = if k = a then b else m.read font k := by
  unfold Memory.write Memory.read
  split
  · rename_i h
    rw [Memory.lookup_erase]
    split
    · subst_vars; simp
    · rfl
  · rw [Memory.lookup_insert]
    split <;> simp

theorem Memory.mem_insert {m : Memory} {a : Nat} {b : Byte} {c : Host.Cell} (h : c ∈ m.insert a b) :
    c = (a, b) ∨ c ∈ m := by
  induction m with
  | nil => simpa [Memory.insert] using h
  | cons d rest ih =>
    obtain ⟨j, e⟩ := d
    simp only [Memory.insert] at h
    split at h
    · simpa using h
    · split at h
      · rcases List.mem_cons.1 h with h | h
        · exact .inl h
        · exact .inr (List.mem_cons_of_mem _ h)
      · rcases List.mem_cons.1 h with h | h
        · exact .inr (h ▸ List.mem_cons_self)
        · exact (ih h).imp_right (List.mem_cons_of_mem _)

theorem Memory.pairwise_insert {m : Memory} (h : m.Pairwise (fun c d => c.1 < d.1)) (a : Nat) (b : Byte) :
    (m.insert a b).Pairwise (fun c d => c.1 < d.1) := by
  induction m with
  | nil => simp [Memory.insert]
  | cons c rest ih =>
    obtain ⟨j, d⟩ := c
    obtain ⟨hj, hrest⟩ := List.pairwise_cons.1 h
    simp only [Memory.insert]
    split
    · refine List.pairwise_cons.2 ⟨fun e he => ?_, h⟩
      rcases List.mem_cons.1 he with rfl | he
      · assumption
      · have := hj e he; simp only at this ⊢; omega
    · split
      · subst_vars
        exact List.pairwise_cons.2 ⟨hj, hrest⟩
      · refine List.pairwise_cons.2 ⟨fun e he => ?_, ih hrest⟩
        rcases Memory.mem_insert he with rfl | he
        · simp only; omega
        · exact hj e he

/-- Every write to an address of the memory keeps the canonical form. -/
theorem Memory.wf_write {font : Fontset} {m : Memory} (h : m.wf font) {a : Nat} (ha : a < memSize) (b : Byte) :
    (m.write font a b).wf font := by
  obtain ⟨hp, hb⟩ := h
  unfold Memory.write
  split
  · exact ⟨hp.filter _, fun c hc => hb c (List.mem_of_mem_filter hc)⟩
  · refine ⟨Memory.pairwise_insert hp a b, fun c hc => ?_⟩
    rcases Memory.mem_insert hc with rfl | hc
    · exact ⟨ha, by assumption⟩
    · exact hb c hc

/-- Copying a byte string that ends inside the memory keeps the canonical form. -/
theorem Memory.wf_writeBytes {font : Fontset} (bs : List Byte) {m : Memory} (h : m.wf font) {a : Nat}
    (ha : a + bs.length ≤ memSize) : (m.writeBytes font a bs).wf font := by
  induction bs generalizing m a with
  | nil => exact h
  | cons b bs ih =>
    rw [List.length_cons] at ha
    exact ih (Memory.wf_write h (by omega) b) (by omega)

/-- What a copied byte string reads as: `bs[j]` at `a + j`, every other byte as before. -/
theorem Memory.read_writeBytes (font : Fontset) (bs : List Byte) (m : Memory) (a k : Nat) :
    (m.writeBytes font a bs).read font k =
      if a ≤ k ∧ k < a + bs.length then bs.getD (k - a) 0 else m.read font k := by
  induction bs generalizing m a with
  | nil => simp [Memory.writeBytes]
  | cons b bs ih =>
    rw [Memory.writeBytes, ih, Memory.read_write, List.length_cons]
    by_cases hk : k = a
    · subst hk
      rw [if_neg (by omega), if_pos rfl, if_pos (by omega)]; simp
    · rw [if_neg hk]
      by_cases hr : a + 1 ≤ k ∧ k < a + 1 + bs.length
      · rw [if_pos hr, if_pos (by omega)]
        obtain ⟨j, hj⟩ : ∃ j, k - a = j + 1 := ⟨k - a - 1, by omega⟩
        rw [hj, show k - (a + 1) = j by omega]; simp
      · rw [if_neg hr, if_neg (by omega)]

theorem Memory.lookup_of_mem {m : Memory} (h : m.Pairwise (fun c d => c.1 < d.1)) {c : Host.Cell} (hc : c ∈ m) :
    m.lookup c.1 = some c.2 := by
  induction m with
  | nil => simp at hc
  | cons d rest ih =>
    obtain ⟨hd, hrest⟩ := List.pairwise_cons.1 h
    rcases List.mem_cons.1 hc with rfl | hc
    · simp [Memory.lookup]
    · have := hd c hc
      simp only [Memory.lookup]
      rw [if_neg (by omega)]
      exact ih hrest hc

theorem Memory.mem_of_lookup {m : Memory} {a : Nat} {b : Byte} (h : m.lookup a = some b) : (a, b) ∈ m := by
  induction m with
  | nil => simp [Memory.lookup] at h
  | cons d rest ih =>
    simp only [Memory.lookup] at h
    split at h
    · obtain ⟨j, e⟩ := d
      simp_all
    · exact List.mem_cons_of_mem _ (ih h)

end Sys2Proof.Machine
end

