-- ==== Sys2Proof/Laws/State.lean ====
section
/-! SUPPORT. One lemma per field per update of the state, true by rfl, so that no later proof unfolds a record update; then the
same for the reads the model's claims are stated through (`reg`, `memRead`, `pixel`, `key`, `indexed`). -/

namespace Sys2Proof.Machine

variable (s : State)

/-! ### setReg -/

@[simp] theorem State.setReg_config (x : Nibble) (b : Byte) : (s.setReg x b).config = s.config := rfl
@[simp] theorem State.setReg_mem (x : Nibble) (b : Byte) : (s.setReg x b).mem = s.mem := rfl
@[simp] theorem State.setReg_I (x : Nibble) (b : Byte) : (s.setReg x b).I = s.I := rfl
@[simp] theorem State.setReg_pc (x : Nibble) (b : Byte) : (s.setReg x b).pc = s.pc := rfl
@[simp] theorem State.setReg_stack (x : Nibble) (b : Byte) : (s.setReg x b).stack = s.stack := rfl
@[simp] theorem State.setReg_SP (x : Nibble) (b : Byte) : (s.setReg x b).SP = s.SP := rfl
@[simp] theorem State.setReg_DT (x : Nibble) (b : Byte) : (s.setReg x b).DT = s.DT := rfl
@[simp] theorem State.setReg_keys (x : Nibble) (b : Byte) : (s.setReg x b).keys = s.keys := rfl
@[simp] theorem State.setReg_video (x : Nibble) (b : Byte) : (s.setReg x b).video = s.video := rfl
@[simp] theorem State.setReg_opcode (x : Nibble) (b : Byte) : (s.setReg x b).opcode = s.opcode := rfl
@[simp] theorem State.setReg_fault (x : Nibble) (b : Byte) : (s.setReg x b).fault = s.fault := rfl
@[simp] theorem State.setReg_unknown (x : Nibble) (b : Byte) : (s.setReg x b).unknown = s.unknown := rfl
@[simp] theorem State.setReg_draws (x : Nibble) (b : Byte) : (s.setReg x b).draws = s.draws := rfl

/-! ### setI -/

@[simp] theorem State.setI_config (a : Word) : (s.setI a).config = s.config := rfl
@[simp] theorem State.setI_mem (a : Word) : (s.setI a).mem = s.mem := rfl
@[simp] theorem State.setI_V (a : Word) : (s.setI a).V = s.V := rfl
@[simp] theorem State.setI_I (a : Word) : (s.setI a).I = a := rfl
@[simp] theorem State.setI_pc (a : Word) : (s.setI a).pc = s.pc := rfl
@[simp] theorem State.setI_stack (a : Word) : (s.setI a).stack = s.stack := rfl
@[simp] theorem State.setI_SP (a : Word) : (s.setI a).SP = s.SP := rfl
@[simp] theorem State.setI_DT (a : Word) : (s.setI a).DT = s.DT := rfl
@[simp] theorem State.setI_keys (a : Word) : (s.setI a).keys = s.keys := rfl
@[simp] theorem State.setI_video (a : Word) : (s.setI a).video = s.video := rfl
@[simp] theorem State.setI_opcode (a : Word) : (s.setI a).opcode = s.opcode := rfl
@[simp] theorem State.setI_fault (a : Word) : (s.setI a).fault = s.fault := rfl
@[simp] theorem State.setI_unknown (a : Word) : (s.setI a).unknown = s.unknown := rfl
@[simp] theorem State.setI_draws (a : Word) : (s.setI a).draws = s.draws := rfl

/-! ### setPc -/

@[simp] theorem State.setPc_config (a : Word) : (s.setPc a).config = s.config := rfl
@[simp] theorem State.setPc_mem (a : Word) : (s.setPc a).mem = s.mem := rfl
@[simp] theorem State.setPc_V (a : Word) : (s.setPc a).V = s.V := rfl
@[simp] theorem State.setPc_I (a : Word) : (s.setPc a).I = s.I := rfl
@[simp] theorem State.setPc_pc (a : Word) : (s.setPc a).pc = a := rfl
@[simp] theorem State.setPc_stack (a : Word) : (s.setPc a).stack = s.stack := rfl
@[simp] theorem State.setPc_SP (a : Word) : (s.setPc a).SP = s.SP := rfl
@[simp] theorem State.setPc_DT (a : Word) : (s.setPc a).DT = s.DT := rfl
@[simp] theorem State.setPc_keys (a : Word) : (s.setPc a).keys = s.keys := rfl
@[simp] theorem State.setPc_video (a : Word) : (s.setPc a).video = s.video := rfl
@[simp] theorem State.setPc_opcode (a : Word) : (s.setPc a).opcode = s.opcode := rfl
@[simp] theorem State.setPc_fault (a : Word) : (s.setPc a).fault = s.fault := rfl
@[simp] theorem State.setPc_unknown (a : Word) : (s.setPc a).unknown = s.unknown := rfl
@[simp] theorem State.setPc_draws (a : Word) : (s.setPc a).draws = s.draws := rfl

/-! ### setDT -/

@[simp] theorem State.setDT_config (b : Byte) : (s.setDT b).config = s.config := rfl
@[simp] theorem State.setDT_mem (b : Byte) : (s.setDT b).mem = s.mem := rfl
@[simp] theorem State.setDT_V (b : Byte) : (s.setDT b).V = s.V := rfl
@[simp] theorem State.setDT_I (b : Byte) : (s.setDT b).I = s.I := rfl
@[simp] theorem State.setDT_pc (b : Byte) : (s.setDT b).pc = s.pc := rfl
@[simp] theorem State.setDT_stack (b : Byte) : (s.setDT b).stack = s.stack := rfl
@[simp] theorem State.setDT_SP (b : Byte) : (s.setDT b).SP = s.SP := rfl
@[simp] theorem State.setDT_DT (b : Byte) : (s.setDT b).DT = b := rfl
@[simp] theorem State.setDT_keys (b : Byte) : (s.setDT b).keys = s.keys := rfl
@[simp] theorem State.setDT_video (b : Byte) : (s.setDT b).video = s.video := rfl
@[simp] theorem State.setDT_opcode (b : Byte) : (s.setDT b).opcode = s.opcode := rfl
@[simp] theorem State.setDT_fault (b : Byte) : (s.setDT b).fault = s.fault := rfl
@[simp] theorem State.setDT_unknown (b : Byte) : (s.setDT b).unknown = s.unknown := rfl
@[simp] theorem State.setDT_draws (b : Byte) : (s.setDT b).draws = s.draws := rfl

/-! ### skip -/

@[simp] theorem State.skip_config : s.skip.config = s.config := rfl
@[simp] theorem State.skip_mem : s.skip.mem = s.mem := rfl
@[simp] theorem State.skip_V : s.skip.V = s.V := rfl
@[simp] theorem State.skip_I : s.skip.I = s.I := rfl
@[simp] theorem State.skip_pc : s.skip.pc = s.pc + 2 := rfl
@[simp] theorem State.skip_stack : s.skip.stack = s.stack := rfl
@[simp] theorem State.skip_SP : s.skip.SP = s.SP := rfl
@[simp] theorem State.skip_DT : s.skip.DT = s.DT := rfl
@[simp] theorem State.skip_keys : s.skip.keys = s.keys := rfl
@[simp] theorem State.skip_video : s.skip.video = s.video := rfl
@[simp] theorem State.skip_opcode : s.skip.opcode = s.opcode := rfl
@[simp] theorem State.skip_fault : s.skip.fault = s.fault := rfl
@[simp] theorem State.skip_unknown : s.skip.unknown = s.unknown := rfl
@[simp] theorem State.skip_draws : s.skip.draws = s.draws := rfl

/-! ### memWrite -/

@[simp] theorem State.memWrite_config (a : Word) (b : Byte) : (s.memWrite a b).config = s.config := rfl
@[simp] theorem State.memWrite_mem (a : Word) (b : Byte) : (s.memWrite a b).mem = s.mem.write s.config.fontset (portAddr a) b := rfl
@[simp] theorem State.memWrite_V (a : Word) (b : Byte) : (s.memWrite a b).V = s.V := rfl
@[simp] theorem State.memWrite_I (a : Word) (b : Byte) : (s.memWrite a b).I = s.I := rfl
@[simp] theorem State.memWrite_pc (a : Word) (b : Byte) : (s.memWrite a b).pc = s.pc := rfl
@[simp] theorem State.memWrite_stack (a : Word) (b : Byte) : (s.memWrite a b).stack = s.stack := rfl
@[simp] theorem State.memWrite_SP (a : Word) (b : Byte) : (s.memWrite a b).SP = s.SP := rfl
@[simp] theorem State.memWrite_DT (a : Word) (b : Byte) : (s.memWrite a b).DT = s.DT := rfl
@[simp] theorem State.memWrite_keys (a : Word) (b : Byte) : (s.memWrite a b).keys = s.keys := rfl
@[simp] theorem State.memWrite_video (a : Word) (b : Byte) : (s.memWrite a b).video = s.video := rfl
@[simp] theorem State.memWrite_opcode (a : Word) (b : Byte) : (s.memWrite a b).opcode = s.opcode := rfl
@[simp] theorem State.memWrite_fault (a : Word) (b : Byte) : (s.memWrite a b).fault = s.fault := rfl
@[simp] theorem State.memWrite_unknown (a : Word) (b : Byte) : (s.memWrite a b).unknown = s.unknown := rfl
@[simp] theorem State.memWrite_draws (a : Word) (b : Byte) : (s.memWrite a b).draws = s.draws := rfl

/-! ### storeWord -/

@[simp] theorem State.storeWord_config (a w : Word) : (s.storeWord a w).config = s.config := rfl
@[simp] theorem State.storeWord_V (a w : Word) : (s.storeWord a w).V = s.V := rfl
@[simp] theorem State.storeWord_I (a w : Word) : (s.storeWord a w).I = s.I := rfl
@[simp] theorem State.storeWord_pc (a w : Word) : (s.storeWord a w).pc = s.pc := rfl
@[simp] theorem State.storeWord_stack (a w : Word) : (s.storeWord a w).stack = s.stack := rfl
@[simp] theorem State.storeWord_SP (a w : Word) : (s.storeWord a w).SP = s.SP := rfl
@[simp] theorem State.storeWord_DT (a w : Word) : (s.storeWord a w).DT = s.DT := rfl
@[simp] theorem State.storeWord_keys (a w : Word) : (s.storeWord a w).keys = s.keys := rfl
@[simp] theorem State.storeWord_video (a w : Word) : (s.storeWord a w).video = s.video := rfl
@[simp] theorem State.storeWord_opcode (a w : Word) : (s.storeWord a w).opcode = s.opcode := rfl
@[simp] theorem State.storeWord_fault (a w : Word) : (s.storeWord a w).fault = s.fault := rfl
@[simp] theorem State.storeWord_unknown (a w : Word) : (s.storeWord a w).unknown = s.unknown := rfl
@[simp] theorem State.storeWord_draws (a w : Word) : (s.storeWord a w).draws = s.draws := rfl

/-! ### togglePixel -/

@[simp] theorem State.togglePixel_config (x y : Nat) : (s.togglePixel x y).config = s.config := rfl
@[simp] theorem State.togglePixel_mem (x y : Nat) : (s.togglePixel x y).mem = s.mem := rfl
@[simp] theorem State.togglePixel_V (x y : Nat) : (s.togglePixel x y).V = s.V := rfl
@[simp] theorem State.togglePixel_I (x y : Nat) : (s.togglePixel x y).I = s.I := rfl
@[simp] theorem State.togglePixel_pc (x y : Nat) : (s.togglePixel x y).pc = s.pc := rfl
@[simp] theorem State.togglePixel_stack (x y : Nat) : (s.togglePixel x y).stack = s.stack := rfl
@[simp] theorem State.togglePixel_SP (x y : Nat) : (s.togglePixel x y).SP = s.SP := rfl
@[simp] theorem State.togglePixel_DT (x y : Nat) : (s.togglePixel x y).DT = s.DT := rfl
@[simp] theorem State.togglePixel_keys (x y : Nat) : (s.togglePixel x y).keys = s.keys := rfl
@[simp] theorem State.togglePixel_video (x y : Nat) : (s.togglePixel x y).video = s.video.toggle (cellIndex s.config.W x y) := rfl
@[simp] theorem State.togglePixel_opcode (x y : Nat) : (s.togglePixel x y).opcode = s.opcode := rfl
@[simp] theorem State.togglePixel_fault (x y : Nat) : (s.togglePixel x y).fault = s.fault := rfl
@[simp] theorem State.togglePixel_unknown (x y : Nat) : (s.togglePixel x y).unknown = s.unknown := rfl
@[simp] theorem State.togglePixel_draws (x y : Nat) : (s.togglePixel x y).draws = s.draws := rfl

/-! ### clearVideo -/

@[simp] theorem State.clearVideo_config : s.clearVideo.config = s.config := rfl
@[simp] theorem State.clearVideo_mem : s.clearVideo.mem = s.mem := rfl
@[simp] theorem State.clearVideo_V : s.clearVideo.V = s.V := rfl
@[simp] theorem State.clearVideo_I : s.clearVideo.I = s.I := rfl
@[simp] theorem State.clearVideo_pc : s.clearVideo.pc = s.pc := rfl
@[simp] theorem State.clearVideo_stack : s.clearVideo.stack = s.stack := rfl
@[simp] theorem State.clearVideo_SP : s.clearVideo.SP = s.SP := rfl
@[simp] theorem State.clearVideo_DT : s.clearVideo.DT = s.DT := rfl
@[simp] theorem State.clearVideo_keys : s.clearVideo.keys = s.keys := rfl
@[simp] theorem State.clearVideo_video : s.clearVideo.video = [] := rfl
@[simp] theorem State.clearVideo_opcode : s.clearVideo.opcode = s.opcode := rfl
@[simp] theorem State.clearVideo_fault : s.clearVideo.fault = s.fault := rfl
@[simp] theorem State.clearVideo_unknown : s.clearVideo.unknown = s.unknown := rfl
@[simp] theorem State.clearVideo_draws : s.clearVideo.draws = s.draws := rfl

/-! ### nextDraw -/

@[simp] theorem State.nextDraw_config : s.nextDraw.config = s.config := rfl
@[simp] theorem State.nextDraw_mem : s.nextDraw.mem = s.mem := rfl
@[simp] theorem State.nextDraw_V : s.nextDraw.V = s.V := rfl
@[simp] theorem State.nextDraw_I : s.nextDraw.I = s.I := rfl
@[simp] theorem State.nextDraw_pc : s.nextDraw.pc = s.pc := rfl
@[simp] theorem State.nextDraw_stack : s.nextDraw.stack = s.stack := rfl
@[simp] theorem State.nextDraw_SP : s.nextDraw.SP = s.SP := rfl
@[simp] theorem State.nextDraw_DT : s.nextDraw.DT = s.DT := rfl
@[simp] theorem State.nextDraw_keys : s.nextDraw.keys = s.keys := rfl
@[simp] theorem State.nextDraw_video : s.nextDraw.video = s.video := rfl
@[simp] theorem State.nextDraw_opcode : s.nextDraw.opcode = s.opcode := rfl
@[simp] theorem State.nextDraw_fault : s.nextDraw.fault = s.fault := rfl
@[simp] theorem State.nextDraw_unknown : s.nextDraw.unknown = s.unknown := rfl
@[simp] theorem State.nextDraw_draws : s.nextDraw.draws = s.draws + 1 := rfl

/-! ### raiseFault -/

@[simp] theorem State.raiseFault_config (c : FaultCode) : (s.raiseFault c).config = s.config := rfl
@[simp] theorem State.raiseFault_mem (c : FaultCode) : (s.raiseFault c).mem = s.mem := rfl
@[simp] theorem State.raiseFault_V (c : FaultCode) : (s.raiseFault c).V = s.V := rfl
@[simp] theorem State.raiseFault_I (c : FaultCode) : (s.raiseFault c).I = s.I := rfl
@[simp] theorem State.raiseFault_pc (c : FaultCode) : (s.raiseFault c).pc = s.pc - 2 := rfl
@[simp] theorem State.raiseFault_stack (c : FaultCode) : (s.raiseFault c).stack = s.stack := rfl
@[simp] theorem State.raiseFault_SP (c : FaultCode) : (s.raiseFault c).SP = s.SP := rfl
@[simp] theorem State.raiseFault_DT (c : FaultCode) : (s.raiseFault c).DT = s.DT := rfl
@[simp] theorem State.raiseFault_keys (c : FaultCode) : (s.raiseFault c).keys = s.keys := rfl
@[simp] theorem State.raiseFault_video (c : FaultCode) : (s.raiseFault c).video = s.video := rfl
@[simp] theorem State.raiseFault_opcode (c : FaultCode) : (s.raiseFault c).opcode = s.opcode := rfl
@[simp] theorem State.raiseFault_fault (c : FaultCode) : (s.raiseFault c).fault = some { code := c, addr := s.pc - 2 } := rfl
@[simp] theorem State.raiseFault_unknown (c : FaultCode) : (s.raiseFault c).unknown = s.unknown := rfl
@[simp] theorem State.raiseFault_draws (c : FaultCode) : (s.raiseFault c).draws = s.draws := rfl

/-! ### advance -/

@[simp] theorem State.advance_config : s.advance.config = s.config := rfl
@[simp] theorem State.advance_mem : s.advance.mem = s.mem := rfl
@[simp] theorem State.advance_V : s.advance.V = s.V := rfl
@[simp] theorem State.advance_I : s.advance.I = s.I := rfl
@[simp] theorem State.advance_pc : s.advance.pc = s.pc + 2 := rfl
@[simp] theorem State.advance_stack : s.advance.stack = s.stack := rfl
@[simp] theorem State.advance_SP : s.advance.SP = s.SP := rfl
@[simp] theorem State.advance_DT : s.advance.DT = s.DT := rfl
@[simp] theorem State.advance_keys : s.advance.keys = s.keys := rfl
@[simp] theorem State.advance_video : s.advance.video = s.video := rfl
@[simp] theorem State.advance_opcode : s.advance.opcode = s.opcode := rfl
@[simp] theorem State.advance_fault : s.advance.fault = s.fault := rfl
@[simp] theorem State.advance_unknown : s.advance.unknown = none := rfl
@[simp] theorem State.advance_draws : s.advance.draws = s.draws := rfl

/-! ### reportUnknown -/

@[simp] theorem State.reportUnknown_config (w a : Word) : (s.reportUnknown w a).config = s.config := rfl
@[simp] theorem State.reportUnknown_mem (w a : Word) : (s.reportUnknown w a).mem = s.mem := rfl
@[simp] theorem State.reportUnknown_V (w a : Word) : (s.reportUnknown w a).V = s.V := rfl
@[simp] theorem State.reportUnknown_I (w a : Word) : (s.reportUnknown w a).I = s.I := rfl
@[simp] theorem State.reportUnknown_pc (w a : Word) : (s.reportUnknown w a).pc = s.pc := rfl
@[simp] theorem State.reportUnknown_stack (w a : Word) : (s.reportUnknown w a).stack = s.stack := rfl
@[simp] theorem State.reportUnknown_SP (w a : Word) : (s.reportUnknown w a).SP = s.SP := rfl
@[simp] theorem State.reportUnknown_DT (w a : Word) : (s.reportUnknown w a).DT = s.DT := rfl
@[simp] theorem State.reportUnknown_keys (w a : Word) : (s.reportUnknown w a).keys = s.keys := rfl
@[simp] theorem State.reportUnknown_video (w a : Word) : (s.reportUnknown w a).video = s.video := rfl
@[simp] theorem State.reportUnknown_opcode (w a : Word) : (s.reportUnknown w a).opcode = s.opcode := rfl
@[simp] theorem State.reportUnknown_fault (w a : Word) : (s.reportUnknown w a).fault = s.fault := rfl
@[simp] theorem State.reportUnknown_unknown (w a : Word) : (s.reportUnknown w a).unknown = some { word := w, addr := a } := rfl
@[simp] theorem State.reportUnknown_draws (w a : Word) : (s.reportUnknown w a).draws = s.draws := rfl

/-! ### latchOpcode -/

@[simp] theorem State.latchOpcode_config (w : Word) : (s.latchOpcode w).config = s.config := rfl
@[simp] theorem State.latchOpcode_mem (w : Word) : (s.latchOpcode w).mem = s.mem := rfl
@[simp] theorem State.latchOpcode_V (w : Word) : (s.latchOpcode w).V = s.V := rfl
@[simp] theorem State.latchOpcode_I (w : Word) : (s.latchOpcode w).I = s.I := rfl
@[simp] theorem State.latchOpcode_pc (w : Word) : (s.latchOpcode w).pc = s.pc := rfl
@[simp] theorem State.latchOpcode_stack (w : Word) : (s.latchOpcode w).stack = s.stack := rfl
@[simp] theorem State.latchOpcode_SP (w : Word) : (s.latchOpcode w).SP = s.SP := rfl
@[simp] theorem State.latchOpcode_DT (w : Word) : (s.latchOpcode w).DT = s.DT := rfl
@[simp] theorem State.latchOpcode_keys (w : Word) : (s.latchOpcode w).keys = s.keys := rfl
@[simp] theorem State.latchOpcode_video (w : Word) : (s.latchOpcode w).video = s.video := rfl
@[simp] theorem State.latchOpcode_opcode (w : Word) : (s.latchOpcode w).opcode = w := rfl
@[simp] theorem State.latchOpcode_fault (w : Word) : (s.latchOpcode w).fault = s.fault := rfl
@[simp] theorem State.latchOpcode_unknown (w : Word) : (s.latchOpcode w).unknown = s.unknown := rfl
@[simp] theorem State.latchOpcode_draws (w : Word) : (s.latchOpcode w).draws = s.draws := rfl

/-! ### setKeypad -/

@[simp] theorem State.setKeypad_config (k : BitVec 16) : (s.setKeypad k).config = s.config := rfl
@[simp] theorem State.setKeypad_mem (k : BitVec 16) : (s.setKeypad k).mem = s.mem := rfl
@[simp] theorem State.setKeypad_V (k : BitVec 16) : (s.setKeypad k).V = s.V := rfl
@[simp] theorem State.setKeypad_I (k : BitVec 16) : (s.setKeypad k).I = s.I := rfl
@[simp] theorem State.setKeypad_pc (k : BitVec 16) : (s.setKeypad k).pc = s.pc := rfl
@[simp] theorem State.setKeypad_stack (k : BitVec 16) : (s.setKeypad k).stack = s.stack := rfl
@[simp] theorem State.setKeypad_SP (k : BitVec 16) : (s.setKeypad k).SP = s.SP := rfl
@[simp] theorem State.setKeypad_DT (k : BitVec 16) : (s.setKeypad k).DT = s.DT := rfl
@[simp] theorem State.setKeypad_keys (k : BitVec 16) : (s.setKeypad k).keys = k := rfl
@[simp] theorem State.setKeypad_video (k : BitVec 16) : (s.setKeypad k).video = s.video := rfl
@[simp] theorem State.setKeypad_opcode (k : BitVec 16) : (s.setKeypad k).opcode = s.opcode := rfl
@[simp] theorem State.setKeypad_fault (k : BitVec 16) : (s.setKeypad k).fault = s.fault := rfl
@[simp] theorem State.setKeypad_unknown (k : BitVec 16) : (s.setKeypad k).unknown = s.unknown := rfl
@[simp] theorem State.setKeypad_draws (k : BitVec 16) : (s.setKeypad k).draws = s.draws := rfl

/-! ### loadRom -/

@[simp] theorem State.loadRom_config (rom : List Byte) : (s.loadRom rom).config = s.config := rfl
@[simp] theorem State.loadRom_mem (rom : List Byte) : (s.loadRom rom).mem = s.mem.writeBytes s.config.fontset progBase rom := rfl
@[simp] theorem State.loadRom_V (rom : List Byte) : (s.loadRom rom).V = s.V := rfl
@[simp] theorem State.loadRom_I (rom : List Byte) : (s.loadRom rom).I = s.I := rfl
@[simp] theorem State.loadRom_pc (rom : List Byte) : (s.loadRom rom).pc = s.pc := rfl
@[simp] theorem State.loadRom_stack (rom : List Byte) : (s.loadRom rom).stack = s.stack := rfl
@[simp] theorem State.loadRom_SP (rom : List Byte) : (s.loadRom rom).SP = s.SP := rfl
@[simp] theorem State.loadRom_DT (rom : List Byte) : (s.loadRom rom).DT = s.DT := rfl
@[simp] theorem State.loadRom_keys (rom : List Byte) : (s.loadRom rom).keys = s.keys := rfl
@[simp] theorem State.loadRom_video (rom : List Byte) : (s.loadRom rom).video = s.video := rfl
@[simp] theorem State.loadRom_opcode (rom : List Byte) : (s.loadRom rom).opcode = s.opcode := rfl
@[simp] theorem State.loadRom_fault (rom : List Byte) : (s.loadRom rom).fault = s.fault := rfl
@[simp] theorem State.loadRom_unknown (rom : List Byte) : (s.loadRom rom).unknown = s.unknown := rfl
@[simp] theorem State.loadRom_draws (rom : List Byte) : (s.loadRom rom).draws = s.draws := rfl

/-! ### What leaves `reg` unchanged -/

@[simp] theorem State.reg_setI (a : Word) (r : Nibble) : (s.setI a).reg r = s.reg r := rfl
@[simp] theorem State.reg_setPc (a : Word) (r : Nibble) : (s.setPc a).reg r = s.reg r := rfl
@[simp] theorem State.reg_setDT (b : Byte) (r : Nibble) : (s.setDT b).reg r = s.reg r := rfl
@[simp] theorem State.reg_skip (r : Nibble) : s.skip.reg r = s.reg r := rfl
@[simp] theorem State.reg_memWrite (a : Word) (b : Byte) (r : Nibble) : (s.memWrite a b).reg r = s.reg r := rfl
@[simp] theorem State.reg_storeWord (a w : Word) (r : Nibble) : (s.storeWord a w).reg r = s.reg r := rfl
@[simp] theorem State.reg_togglePixel (x y : Nat) (r : Nibble) : (s.togglePixel x y).reg r = s.reg r := rfl
@[simp] theorem State.reg_clearVideo (r : Nibble) : s.clearVideo.reg r = s.reg r := rfl
@[simp] theorem State.reg_nextDraw (r : Nibble) : s.nextDraw.reg r = s.reg r := rfl
@[simp] theorem State.reg_raiseFault (c : FaultCode) (r : Nibble) : (s.raiseFault c).reg r = s.reg r := rfl
@[simp] theorem State.reg_advance (r : Nibble) : s.advance.reg r = s.reg r := rfl
@[simp] theorem State.reg_reportUnknown (w a : Word) (r : Nibble) : (s.reportUnknown w a).reg r = s.reg r := rfl
@[simp] theorem State.reg_latchOpcode (w : Word) (r : Nibble) : (s.latchOpcode w).reg r = s.reg r := rfl
@[simp] theorem State.reg_setKeypad (k : BitVec 16) (r : Nibble) : (s.setKeypad k).reg r = s.reg r := rfl
@[simp] theorem State.reg_loadRom (rom : List Byte) (r : Nibble) : (s.loadRom rom).reg r = s.reg r := rfl

/-! ### What leaves `memRead` unchanged -/

@[simp] theorem State.memRead_setReg (x : Nibble) (b : Byte) (p : Word) : (s.setReg x b).memRead p = s.memRead p := rfl
@[simp] theorem State.memRead_setI (a : Word) (p : Word) : (s.setI a).memRead p = s.memRead p := rfl
@[simp] theorem State.memRead_setPc (a : Word) (p : Word) : (s.setPc a).memRead p = s.memRead p := rfl
@[simp] theorem State.memRead_setDT (b : Byte) (p : Word) : (s.setDT b).memRead p = s.memRead p := rfl
@[simp] theorem State.memRead_skip (p : Word) : s.skip.memRead p = s.memRead p := rfl
@[simp] theorem State.memRead_togglePixel (x y : Nat) (p : Word) : (s.togglePixel x y).memRead p = s.memRead p := rfl
@[simp] theorem State.memRead_clearVideo (p : Word) : s.clearVideo.memRead p = s.memRead p := rfl
@[simp] theorem State.memRead_nextDraw (p : Word) : s.nextDraw.memRead p = s.memRead p := rfl
@[simp] theorem State.memRead_raiseFault (c : FaultCode) (p : Word) : (s.raiseFault c).memRead p = s.memRead p := rfl
@[simp] theorem State.memRead_advance (p : Word) : s.advance.memRead p = s.memRead p := rfl
@[simp] theorem State.memRead_reportUnknown (w a : Word) (p : Word) : (s.reportUnknown w a).memRead p = s.memRead p := rfl
@[simp] theorem State.memRead_latchOpcode (w : Word) (p : Word) : (s.latchOpcode w).memRead p = s.memRead p := rfl
@[simp] theorem State.memRead_setKeypad (k : BitVec 16) (p : Word) : (s.setKeypad k).memRead p = s.memRead p := rfl

/-! ### What leaves `pixel` unchanged -/

@[simp] theorem State.pixel_setReg (x : Nibble) (b : Byte) (px py : Nat) : (s.setReg x b).pixel px py = s.pixel px py := rfl
@[simp] theorem State.pixel_setI (a : Word) (px py : Nat) : (s.setI a).pixel px py = s.pixel px py := rfl
@[simp] theorem State.pixel_setPc (a : Word) (px py : Nat) : (s.setPc a).pixel px py = s.pixel px py := rfl
@[simp] theorem State.pixel_setDT (b : Byte) (px py : Nat) : (s.setDT b).pixel px py = s.pixel px py := rfl
@[simp] theorem State.pixel_skip (px py : Nat) : s.skip.pixel px py = s.pixel px py := rfl
@[simp] theorem State.pixel_memWrite (a : Word) (b : Byte) (px py : Nat) : (s.memWrite a b).pixel px py = s.pixel px py := rfl
@[simp] theorem State.pixel_storeWord (a w : Word) (px py : Nat) : (s.storeWord a w).pixel px py = s.pixel px py := rfl
@[simp] theorem State.pixel_nextDraw (px py : Nat) : s.nextDraw.pixel px py = s.pixel px py := rfl
@[simp] theorem State.pixel_raiseFault (c : FaultCode) (px py : Nat) : (s.raiseFault c).pixel px py = s.pixel px py := rfl
@[simp] theorem State.pixel_advance (px py : Nat) : s.advance.pixel px py = s.pixel px py := rfl
@[simp] theorem State.pixel_reportUnknown (w a : Word) (px py : Nat) : (s.reportUnknown w a).pixel px py = s.pixel px py := rfl
@[simp] theorem State.pixel_latchOpcode (w : Word) (px py : Nat) : (s.latchOpcode w).pixel px py = s.pixel px py := rfl
@[simp] theorem State.pixel_setKeypad (k : BitVec 16) (px py : Nat) : (s.setKeypad k).pixel px py = s.pixel px py := rfl
@[simp] theorem State.pixel_loadRom (rom : List Byte) (px py : Nat) : (s.loadRom rom).pixel px py = s.pixel px py := rfl

/-! ### What leaves `key` unchanged -/

@[simp] theorem State.key_setReg (x : Nibble) (b : Byte) (k : Nat) : (s.setReg x b).key k = s.key k := rfl
@[simp] theorem State.key_setI (a : Word) (k : Nat) : (s.setI a).key k = s.key k := rfl
@[simp] theorem State.key_setPc (a : Word) (k : Nat) : (s.setPc a).key k = s.key k := rfl
@[simp] theorem State.key_setDT (b : Byte) (k : Nat) : (s.setDT b).key k = s.key k := rfl
@[simp] theorem State.key_skip (k : Nat) : s.skip.key k = s.key k := rfl
@[simp] theorem State.key_memWrite (a : Word) (b : Byte) (k : Nat) : (s.memWrite a b).key k = s.key k := rfl
@[simp] theorem State.key_storeWord (a w : Word) (k : Nat) : (s.storeWord a w).key k = s.key k := rfl
@[simp] theorem State.key_togglePixel (x y : Nat) (k : Nat) : (s.togglePixel x y).key k = s.key k := rfl
@[simp] theorem State.key_clearVideo (k : Nat) : s.clearVideo.key k = s.key k := rfl
@[simp] theorem State.key_nextDraw (k : Nat) : s.nextDraw.key k = s.key k := rfl
@[simp] theorem State.key_raiseFault (c : FaultCode) (k : Nat) : (s.raiseFault c).key k = s.key k := rfl
@[simp] theorem State.key_advance (k : Nat) : s.advance.key k = s.key k := rfl
@[simp] theorem State.key_reportUnknown (w a : Word) (k : Nat) : (s.reportUnknown w a).key k = s.key k := rfl
@[simp] theorem State.key_latchOpcode (w : Word) (k : Nat) : (s.latchOpcode w).key k = s.key k := rfl
@[simp] theorem State.key_loadRom (rom : List Byte) (k : Nat) : (s.loadRom rom).key k = s.key k := rfl

/-! ### What leaves `indexed` unchanged -/

@[simp] theorem State.indexed_setReg (x : Nibble) (b : Byte) (j : Nat) : (s.setReg x b).indexed j = s.indexed j := rfl
@[simp] theorem State.indexed_setPc (a : Word) (j : Nat) : (s.setPc a).indexed j = s.indexed j := rfl
@[simp] theorem State.indexed_setDT (b : Byte) (j : Nat) : (s.setDT b).indexed j = s.indexed j := rfl
@[simp] theorem State.indexed_skip (j : Nat) : s.skip.indexed j = s.indexed j := rfl
@[simp] theorem State.indexed_memWrite (a : Word) (b : Byte) (j : Nat) : (s.memWrite a b).indexed j = s.indexed j := rfl
@[simp] theorem State.indexed_storeWord (a w : Word) (j : Nat) : (s.storeWord a w).indexed j = s.indexed j := rfl
@[simp] theorem State.indexed_togglePixel (x y : Nat) (j : Nat) : (s.togglePixel x y).indexed j = s.indexed j := rfl
@[simp] theorem State.indexed_clearVideo (j : Nat) : s.clearVideo.indexed j = s.indexed j := rfl
@[simp] theorem State.indexed_nextDraw (j : Nat) : s.nextDraw.indexed j = s.indexed j := rfl
@[simp] theorem State.indexed_raiseFault (c : FaultCode) (j : Nat) : (s.raiseFault c).indexed j = s.indexed j := rfl
@[simp] theorem State.indexed_advance (j : Nat) : s.advance.indexed j = s.indexed j := rfl
@[simp] theorem State.indexed_reportUnknown (w a : Word) (j : Nat) : (s.reportUnknown w a).indexed j = s.indexed j := rfl
@[simp] theorem State.indexed_latchOpcode (w : Word) (j : Nat) : (s.latchOpcode w).indexed j = s.indexed j := rfl
@[simp] theorem State.indexed_setKeypad (k : BitVec 16) (j : Nat) : (s.setKeypad k).indexed j = s.indexed j := rfl
@[simp] theorem State.indexed_loadRom (rom : List Byte) (j : Nat) : (s.loadRom rom).indexed j = s.indexed j := rfl

/-! ### What leaves `onScreen` unchanged -/

@[simp] theorem State.onScreen_setReg (x : Nibble) (b : Byte) (px py : Nat) : (s.setReg x b).onScreen px py = s.onScreen px py := rfl
@[simp] theorem State.onScreen_setI (a : Word) (px py : Nat) : (s.setI a).onScreen px py = s.onScreen px py := rfl
@[simp] theorem State.onScreen_setPc (a : Word) (px py : Nat) : (s.setPc a).onScreen px py = s.onScreen px py := rfl
@[simp] theorem State.onScreen_setDT (b : Byte) (px py : Nat) : (s.setDT b).onScreen px py = s.onScreen px py := rfl
@[simp] theorem State.onScreen_skip (px py : Nat) : s.skip.onScreen px py = s.onScreen px py := rfl
@[simp] theorem State.onScreen_memWrite (a : Word) (b : Byte) (px py : Nat) : (s.memWrite a b).onScreen px py = s.onScreen px py := rfl
@[simp] theorem State.onScreen_storeWord (a w : Word) (px py : Nat) : (s.storeWord a w).onScreen px py = s.onScreen px py := rfl
@[simp] theorem State.onScreen_togglePixel (x y : Nat) (px py : Nat) : (s.togglePixel x y).onScreen px py = s.onScreen px py := rfl
@[simp] theorem State.onScreen_clearVideo (px py : Nat) : s.clearVideo.onScreen px py = s.onScreen px py := rfl
@[simp] theorem State.onScreen_nextDraw (px py : Nat) : s.nextDraw.onScreen px py = s.onScreen px py := rfl
@[simp] theorem State.onScreen_raiseFault (c : FaultCode) (px py : Nat) : (s.raiseFault c).onScreen px py = s.onScreen px py := rfl
@[simp] theorem State.onScreen_advance (px py : Nat) : s.advance.onScreen px py = s.onScreen px py := rfl
@[simp] theorem State.onScreen_reportUnknown (w a : Word) (px py : Nat) : (s.reportUnknown w a).onScreen px py = s.onScreen px py := rfl
@[simp] theorem State.onScreen_latchOpcode (w : Word) (px py : Nat) : (s.latchOpcode w).onScreen px py = s.onScreen px py := rfl
@[simp] theorem State.onScreen_setKeypad (k : BitVec 16) (px py : Nat) : (s.setKeypad k).onScreen px py = s.onScreen px py := rfl
@[simp] theorem State.onScreen_loadRom (rom : List Byte) (px py : Nat) : (s.loadRom rom).onScreen px py = s.onScreen px py := rfl

/-! ### What leaves `lowestKey` unchanged -/

@[simp] theorem State.lowestKey_setReg (x : Nibble) (b : Byte) : (s.setReg x b).lowestKey = s.lowestKey := rfl
@[simp] theorem State.lowestKey_setI (a : Word) : (s.setI a).lowestKey = s.lowestKey := rfl
@[simp] theorem State.lowestKey_setPc (a : Word) : (s.setPc a).lowestKey = s.lowestKey := rfl
@[simp] theorem State.lowestKey_setDT (b : Byte) : (s.setDT b).lowestKey = s.lowestKey := rfl
@[simp] theorem State.lowestKey_skip : s.skip.lowestKey = s.lowestKey := rfl
@[simp] theorem State.lowestKey_memWrite (a : Word) (b : Byte) : (s.memWrite a b).lowestKey = s.lowestKey := rfl
@[simp] theorem State.lowestKey_storeWord (a w : Word) : (s.storeWord a w).lowestKey = s.lowestKey := rfl
@[simp] theorem State.lowestKey_togglePixel (x y : Nat) : (s.togglePixel x y).lowestKey = s.lowestKey := rfl
@[simp] theorem State.lowestKey_clearVideo : s.clearVideo.lowestKey = s.lowestKey := rfl
@[simp] theorem State.lowestKey_nextDraw : s.nextDraw.lowestKey = s.lowestKey := rfl
@[simp] theorem State.lowestKey_raiseFault (c : FaultCode) : (s.raiseFault c).lowestKey = s.lowestKey := rfl
@[simp] theorem State.lowestKey_advance : s.advance.lowestKey = s.lowestKey := rfl
@[simp] theorem State.lowestKey_reportUnknown (w a : Word) : (s.reportUnknown w a).lowestKey = s.lowestKey := rfl
@[simp] theorem State.lowestKey_latchOpcode (w : Word) : (s.latchOpcode w).lowestKey = s.lowestKey := rfl
@[simp] theorem State.lowestKey_loadRom (rom : List Byte) : (s.loadRom rom).lowestKey = s.lowestKey := rfl

/-! ### The reset state (R260) -/

variable (c : Config) (d : Nat)

@[simp] theorem State.resetWith_config : (State.resetWith c d).config = c := rfl
@[simp] theorem State.resetWith_mem : (State.resetWith c d).mem = [] := rfl
@[simp] theorem State.resetWith_I : (State.resetWith c d).I = 0 := rfl
@[simp] theorem State.resetWith_pc : (State.resetWith c d).pc = 0x200 := rfl
@[simp] theorem State.resetWith_SP : (State.resetWith c d).SP = 0 := rfl
@[simp] theorem State.resetWith_DT : (State.resetWith c d).DT = 0 := rfl
@[simp] theorem State.resetWith_keys : (State.resetWith c d).keys = 0 := rfl
@[simp] theorem State.resetWith_video : (State.resetWith c d).video = [] := rfl
@[simp] theorem State.resetWith_opcode : (State.resetWith c d).opcode = 0 := rfl
@[simp] theorem State.resetWith_fault : (State.resetWith c d).fault = none := rfl
@[simp] theorem State.resetWith_unknown : (State.resetWith c d).unknown = none := rfl
@[simp] theorem State.resetWith_draws : (State.resetWith c d).draws = d := rfl

@[simp] theorem State.resetWith_reg (r : Nibble) : (State.resetWith c d).reg r = 0 := by
  simp [State.reg, State.resetWith]

@[simp] theorem State.resetWith_stack (j : Nat) (h : j < 16) : (State.resetWith c d).stack[j] = 0 := by
  simp [State.resetWith]

@[simp] theorem State.resetWith_pixel (x y : Nat) : (State.resetWith c d).pixel x y = false := rfl

@[simp] theorem State.resetWith_memRead (a : Word) : (State.resetWith c d).memRead a = resetByte c.fontset (portAddr a) := rfl

end Sys2Proof.Machine
end

