-- ==== Sys2Proof/Laws/Video.lean ====
section
/-! SUPPORT. The laws of the video buffer as data: what a cell reads as after a toggle, and that a toggle keeps the canonical
form. -/

namespace Sys2Proof.Machine

theorem Video.mem_insert (v : Video) (j k : Nat) : j ∈ v.insert k ↔ j = k ∨ j ∈ v := by
  induction v with
  | nil => simp [Video.insert]
  | cons i rest ih =>
    simp only [Video.insert]
    split
    · simp
    · simp only [List.mem_cons, ih]; tauto

/-- A toggle negates the cell it names and no other (43_display.md R180). -/
theorem Video.isOn_toggle (v : Video) (j k : Nat) : (v.toggle k).isOn j = if j = k then !v.isOn k else v.isOn j := by
  unfold Video.toggle Video.isOn
  split
  · by_cases h : j = k <;> simp [*]
  · by_cases h : j = k <;> simp [Video.mem_insert, *]

theorem Video.pairwise_insert {v : Video} (h : v.Pairwise (· < ·)) {k : Nat} (hk : k ∉ v) :
    (v.insert k).Pairwise (· < ·) := by
  induction v with
  | nil => simp [Video.insert]
  | cons j rest ih =>
    obtain ⟨hj, hrest⟩ := List.pairwise_cons.1 h
    simp only [List.mem_cons, not_or] at hk
    simp only [Video.insert]
    split
    · refine List.pairwise_cons.2 ⟨fun i hi => ?_, h⟩
      rcases List.mem_cons.1 hi with rfl | hi
      · assumption
      · have := hj i hi; omega
    · refine List.pairwise_cons.2 ⟨fun i hi => ?_, ih hrest hk.2⟩
      rcases (Video.mem_insert rest i k).1 hi with rfl | hi
      · omega
      · exact hj i hi

/-- A toggle of a cell that exists keeps the canonical form. -/
theorem Video.wf_toggle {size : Nat} {v : Video} (h : v.wf size) {k : Nat} (hk : k < size) : (v.toggle k).wf size := by
  obtain ⟨hp, hb⟩ := h
  unfold Video.toggle
  split
  · exact ⟨hp.filter _, fun j hj => hb j (List.mem_of_mem_filter hj)⟩
  · refine ⟨Video.pairwise_insert hp ‹_›, fun j hj => ?_⟩
    rcases (Video.mem_insert v j k).1 hj with rfl | hj
    · exact hk
    · exact hb j hj

/-- Two cells of the grid with one index are one cell. -/
theorem cellIndex_inj {W x y x' y' : Nat} (hx : x < W) (hx' : x' < W) :
    cellIndex W x y = cellIndex W x' y' ↔ x = x' ∧ y = y' := by
  constructor
  · intro h
    unfold cellIndex at h
    have hW : 0 < W := by omega
    have hmod := congrArg (· % W) h
    have hdiv := congrArg (· / W) h
    simp only [Nat.mul_comm _ W, Nat.mul_add_mod, Nat.mod_eq_of_lt hx, Nat.mod_eq_of_lt hx'] at hmod
    simp only [Nat.mul_comm _ W, Nat.mul_add_div hW, Nat.div_eq_of_lt hx, Nat.div_eq_of_lt hx', Nat.add_zero] at hdiv
    exact ⟨hmod, hdiv⟩
  · rintro ⟨rfl, rfl⟩; rfl

/-- A cell of the grid has an index below the number of cells. -/
theorem cellIndex_lt {W H x y : Nat} (hx : x < W) (hy : y < H) : cellIndex W x y < W * H := by
  unfold cellIndex
  calc y * W + x < y * W + W := by omega
    _ = (y + 1) * W := by ring
    _ ≤ H * W := Nat.mul_le_mul_right W hy
    _ = W * H := Nat.mul_comm H W

end Sys2Proof.Machine
end

