-- ==== Sys2Proof/Laws/Ops.lean ====
section
/-! SUPPORT. One lemma for each shared operation that says once what it can do: later proofs cite it and do not unfold the
operation. -/

namespace Sys2Proof.Machine

variable (s : State)

/-! ### Registers -/

/-- A register write changes the register it names and no other (10_state.md R21). -/
@[simp] theorem State.reg_setReg (x r : Nibble) (b : Byte) : (s.setReg x b).reg r = if r = x then b else s.reg r := by
  simp only [State.reg, State.setReg, Vector.getElem_set]
  by_cases h : r = x
  · simp [h]
  · have : x.toNat ≠ r.toNat := fun e => h (BitVec.eq_of_toNat_eq e.symm)
    simp [h, this]

@[simp] theorem State.skipIf_pc (c : Bool) : (s.skipIf c).pc = if c then s.pc + 2 else s.pc := by
  unfold State.skipIf; split <;> rfl

/-- A conditional skip changes `pc` alone. -/
theorem State.skipIf_eq (c : Bool) : s.skipIf c = s.setPc (if c then s.pc + 2 else s.pc) := by
  unfold State.skipIf; split <;> rfl

theorem regIndex_toNat {k : Nat} (h : k < 16) : (regIndex k).toNat = k := by
  simp [regIndex, Nat.mod_eq_of_lt h]

theorem regIndex_of_toNat (r : Nibble) : regIndex r.toNat = r := by
  simp [regIndex]

/-! ### Memory -/

/-- A memory write changes the byte its address reduces to and no other (20_memory.md R61, R66). -/
theorem State.memRead_memWrite (a p : Word) (b : Byte) :
    (s.memWrite a b).memRead p = if portAddr p = portAddr a then b else s.memRead p :=
  Memory.read_write _ _ _ _ _

theorem portAddr_lt (a : Word) : portAddr a < memSize := Nat.mod_lt _ (by decide)

/-- The effective address of byte k is `(I + k) mod 4096` (42_index_memory.md R166). -/
theorem State.portAddr_indexed (k : Nat) : portAddr (s.indexed k) = (s.I.toNat + k) % memSize := by
  simp only [portAddr, State.indexed, BitVec.toNat_add, BitVec.toNat_ofNat]
  unfold memSize; omega

/-- Bytes of one block lie at different addresses. -/
theorem State.portAddr_indexed_inj {j k : Nat} (hj : j < 16) (hk : k < 16) :
    portAddr (s.indexed j) = portAddr (s.indexed k) ↔ j = k := by
  rw [State.portAddr_indexed, State.portAddr_indexed]; unfold memSize; omega

/-- The two bytes of a word are its high and its low byte. -/
@[simp] theorem wordOfBytes_high_low (w : Word) : wordOfBytes (highByte w) (lowByte w) = w := by
  unfold wordOfBytes highByte lowByte
  ext i hi
  simp only [BitVec.getElem_append, BitVec.getElem_extractLsb']
  split
  · rw [BitVec.getLsbD_eq_getElem (by omega)]; congr 1; omega
  · rw [BitVec.getLsbD_eq_getElem (by omega)]; congr 1; omega

/-- A word stored is the word fetched back from the same address (20_memory.md R63). -/
theorem State.memRead2_storeWord (a w : Word) : (s.storeWord a w).memRead2 a = w := by
  have h : portAddr a ≠ portAddr (a + 1) := by
    simp only [portAddr, BitVec.toNat_add]; unfold memSize
    have := a.isLt
    rw [show BitVec.toNat (1 : Word) = 1 from rfl]
    omega
  simp only [State.memRead2, State.storeWord, State.memRead_memWrite, if_pos, if_neg h, wordOfBytes_high_low]

/-- Every memory write keeps the canonical form. -/
theorem State.mem_wf_memWrite (h : s.mem.wf s.config.fontset) (a : Word) (b : Byte) :
    (s.memWrite a b).mem.wf s.config.fontset :=
  Memory.wf_write h (portAddr_lt a) b

/-! ### The video buffer -/

/-- A toggle of a cell on the screen negates it and leaves every other cell of the screen alone (43_display.md R180). -/
theorem State.pixel_togglePixel {x x' : Nat} (y y' : Nat) (hx : x < s.config.W) (hx' : x' < s.config.W) :
    (s.togglePixel x y).pixel x' y' = if x' = x ∧ y' = y then !s.pixel x y else s.pixel x' y' := by
  simp only [State.pixel, State.togglePixel_video, State.togglePixel_config, Video.isOn_toggle, cellIndex_inj hx' hx]

@[simp] theorem State.pixel_clearVideo (x y : Nat) : s.clearVideo.pixel x y = false := rfl

/-- A toggle of a cell on the screen keeps the canonical form. -/
theorem State.video_wf_togglePixel {x y : Nat} (h : s.video.wf (s.config.W * s.config.H)) (hx : x < s.config.W)
    (hy : y < s.config.H) : (s.togglePixel x y).video.wf (s.config.W * s.config.H) :=
  Video.wf_toggle h (cellIndex_lt hx hy)

/-! ### The keypad -/

/-- The lowest pressed key is pressed, is a key, and no lower key is pressed (44_keypad_timer_io.md R203). -/
theorem State.lowestKey_eq_some {k : Nat} :
    s.lowestKey = some k ↔ k < 16 ∧ s.key k = true ∧ ∀ j, j < k → s.key j = false := by
  unfold State.lowestKey
  rw [List.find?_range_eq_some]
  simp; tauto

/-- There is no lowest pressed key exactly when no key is pressed. -/
theorem State.lowestKey_eq_none : s.lowestKey = none ↔ ∀ k, k < 16 → s.key k = false := by
  unfold State.lowestKey; simp

/-! ### The call stack -/

theorem State.callTo_of_lt (t : Word) (h : s.SP.val < 16) :
    s.callTo t = { s with stack := s.stack.set s.SP.val s.pc h, SP := ⟨s.SP.val + 1, by omega⟩, pc := t } := by
  unfold State.callTo; rw [dif_pos h]

theorem State.callTo_full (t : Word) (h : s.SP.val = 16) : s.callTo t = s.raiseFault .stackOverflow := by
  unfold State.callTo; rw [dif_neg (by omega)]

theorem State.returnFromCall_of_pos (h : 0 < s.SP.val) :
    s.returnFromCall =
      { s with SP := ⟨s.SP.val - 1, by omega⟩, pc := s.stack[s.SP.val - 1]'(by omega) } := by
  unfold State.returnFromCall; rw [dif_pos h]

theorem State.returnFromCall_empty (h : s.SP.val = 0) : s.returnFromCall = s.raiseFault .stackUnderflow := by
  unfold State.returnFromCall; rw [dif_neg (by omega)]

/-! ### The delay timer and the end of a step -/

/-- The decrement: one less, but not below 0 (60_exceptions.md R230). -/
theorem State.decrementDT_eq : s.decrementDT = s.setDT (if s.DT ≠ 0 then s.DT - 1 else s.DT) := by
  unfold State.decrementDT; split <;> rfl

/-- The delay-timer phase changes DT alone, and in COUPLED mode alone. -/
theorem State.timerPhase_eq :
    s.timerPhase = s.setDT (if s.config.timerMode = .coupled ∧ s.DT ≠ 0 then s.DT - 1 else s.DT) := by
  unfold State.timerPhase
  cases h : s.config.timerMode
  · simp only [State.decrementDT_eq, true_and]
  · simp only [reduceCtorEq, false_and, if_false]; rfl

theorem State.retire_of_fault (w : Word) (h : s.fault ≠ none) : s.retire w = s := by
  unfold State.retire; rw [if_pos (Option.isSome_iff_ne_none.2 h)]

theorem State.retire_of_no_fault (w : Word) (h : s.fault = none) : s.retire w = (s.latchOpcode w).timerPhase := by
  unfold State.retire; simp [h]

/-- Taking a fault at the start of execute leaves the state of before the step, with the latch set (60_exceptions.md
R223). -/
theorem State.raiseFault_advance (c : FaultCode) :
    s.advance.raiseFault c = { s with fault := some { code := c, addr := s.pc }, unknown := none } := by
  have h : s.pc + 2 - 2 = s.pc := BitVec.add_sub_cancel _ _
  simp only [State.raiseFault, State.advance, h]

/-! ### The BCD encoder -/

/-- What memory reads as after the BCD store (42_index_memory.md R163). -/
theorem State.memRead_storeBcd (v : Byte) (p : Word) :
    (s.storeBcd v).memRead p =
      if portAddr p = portAddr (s.indexed 2) then bcdOnes v
      else if portAddr p = portAddr (s.indexed 1) then bcdTens v
      else if portAddr p = portAddr (s.indexed 0) then bcdHundreds v
      else s.memRead p := by
  simp only [State.storeBcd, State.memRead_memWrite]

/-- The BCD store changes memory alone. -/
theorem State.storeBcd_eq (v : Byte) : s.storeBcd v = { s with mem := (s.storeBcd v).mem } := rfl

/-! ### Block store and block load -/

theorem State.storeBlock_succ (n : Nat) :
    s.storeBlock (n + 1) =
      (s.storeBlock n).memWrite ((s.storeBlock n).indexed n) ((s.storeBlock n).reg (regIndex n)) := by
  simp [State.storeBlock, List.range_succ]

/-- The block store changes memory alone. -/
theorem State.storeBlock_eq (n : Nat) : s.storeBlock n = { s with mem := (s.storeBlock n).mem } := by
  induction n with
  | zero => rfl
  | succ n ih => rw [State.storeBlock_succ, ih]; rfl

/-- What memory reads as after the block store: register k at `I + k`, every other byte as before (R164). -/
theorem State.memRead_storeBlock {n : Nat} (hn : n ≤ 16) (p : Word) :
    (∀ k, k < n → portAddr p = portAddr (s.indexed k) → (s.storeBlock n).memRead p = s.reg (regIndex k)) ∧
    ((∀ k, k < n → portAddr p ≠ portAddr (s.indexed k)) → (s.storeBlock n).memRead p = s.memRead p) := by
  induction n with
  | zero => exact ⟨fun k hk => absurd hk (by omega), fun _ => rfl⟩
  | succ n ih =>
    obtain ⟨ih1, ih2⟩ := ih (by omega)
    have hi : (s.storeBlock n).indexed n = s.indexed n := by rw [State.storeBlock_eq]; rfl
    have hr : (s.storeBlock n).reg (regIndex n) = s.reg (regIndex n) := by rw [State.storeBlock_eq]; rfl
    rw [State.storeBlock_succ, State.memRead_memWrite, hi, hr]
    refine ⟨fun k hk hp => ?_, fun h => ?_⟩
    · by_cases hkn : k = n
      · subst hkn; rw [if_pos hp]
      · rw [hp, if_neg (fun e => hkn ((s.portAddr_indexed_inj (by omega) (by omega)).1 e)), ← ih1 k (by omega) hp]
    · rw [if_neg (h n (by omega))]
      exact ih2 fun k hk => h k (by omega)

theorem State.mem_wf_storeBlock (h : s.mem.wf s.config.fontset) (n : Nat) :
    (s.storeBlock n).mem.wf s.config.fontset := by
  induction n with
  | zero => exact h
  | succ n ih =>
    have hc : (s.storeBlock n).config = s.config := by rw [State.storeBlock_eq]
    rw [State.storeBlock_succ]
    have := State.mem_wf_memWrite (s.storeBlock n) (by rwa [hc])
      ((s.storeBlock n).indexed n) ((s.storeBlock n).reg (regIndex n))
    rwa [hc] at this

theorem State.loadBlock_succ (n : Nat) :
    s.loadBlock (n + 1) = (s.loadBlock n).setReg (regIndex n) ((s.loadBlock n).memRead ((s.loadBlock n).indexed n)) := by
  simp [State.loadBlock, List.range_succ]

/-- The block load changes the registers alone. -/
theorem State.loadBlock_eq (n : Nat) : s.loadBlock n = { s with V := (s.loadBlock n).V } := by
  induction n with
  | zero => rfl
  | succ n ih => rw [State.loadBlock_succ, ih]; rfl

/-- What the registers read as after the block load: register r < n from `I + r`, the others as before (R165). -/
theorem State.reg_loadBlock {n : Nat} (hn : n ≤ 16) (r : Nibble) :
    (s.loadBlock n).reg r = if r.toNat < n then s.memRead (s.indexed r.toNat) else s.reg r := by
  induction n with
  | zero => rfl
  | succ n ih =>
    have hm : (s.loadBlock n).memRead ((s.loadBlock n).indexed n) = s.memRead (s.indexed n) := by
      rw [State.loadBlock_eq]; rfl
    rw [State.loadBlock_succ, State.reg_setReg, ih (by omega), hm]
    by_cases hr : r = regIndex n
    · subst hr
      rw [if_pos rfl, regIndex_toNat (by omega), if_pos (by omega)]
    · have : r.toNat ≠ n := fun e => hr (by rw [← e, regIndex_of_toNat])
      rw [if_neg hr]
      by_cases h : r.toNat < n
      · rw [if_pos h, if_pos (by omega)]
      · rw [if_neg h, if_neg (by omega)]

/-! ### The draw unit -/

/-- A draw step changes the registers and the video buffer alone. -/
theorem State.drawBit_eq (px py : Nat) :
    s.drawBit px py = { s with V := (s.drawBit px py).V, video := (s.drawBit px py).video } := by
  unfold State.drawBit; split
  · split <;> rfl
  · rfl

/-- The registers after one set sprite bit: VF is 1 if the bit fell on a lit cell of the screen, all else as before. -/
theorem State.reg_drawBit (px py : Nat) (r : Nibble) :
    (s.drawBit px py).reg r = if r = vF ∧ s.onScreen px py = true ∧ s.pixel px py = true then 1 else s.reg r := by
  unfold State.drawBit
  by_cases h1 : s.onScreen px py = true
  · by_cases h2 : s.pixel px py = true
    · simp [h1, h2, collisionFlag, boolByte]
    · simp [h1, h2]
  · simp [h1]

/-- The screen after one set sprite bit: its cell has flipped if it is on the screen, every other cell is as before. -/
theorem State.pixel_drawBit (px py : Nat) {x y : Nat} (hx : x < s.config.W) (hy : y < s.config.H) :
    (s.drawBit px py).pixel x y = if x = px ∧ y = py then !s.pixel x y else s.pixel x y := by
  unfold State.drawBit
  by_cases h1 : s.onScreen px py = true
  · have hp : px < s.config.W ∧ py < s.config.H := by simpa [State.onScreen] using h1
    rw [if_pos h1]
    have aux : ∀ t : State, t.config = s.config → (∀ a b, t.pixel a b = s.pixel a b) →
        (t.togglePixel px py).pixel x y = if x = px ∧ y = py then !s.pixel x y else s.pixel x y := by
      intro t hc ht
      rw [State.pixel_togglePixel t py y (by rw [hc]; exact hp.1) (by rw [hc]; exact hx), ht, ht]
      split
      · rename_i e; rw [e.1, e.2]
      · rfl
    split
    · exact aux _ rfl fun _ _ => rfl
    · exact aux _ rfl fun _ _ => rfl
  · have hp : ¬ (px < s.config.W ∧ py < s.config.H) := by simpa [State.onScreen] using h1
    rw [if_neg h1, if_neg]
    rintro ⟨rfl, rfl⟩
    exact hp ⟨hx, hy⟩

theorem State.video_wf_drawBit (h : s.video.wf (s.config.W * s.config.H)) (px py : Nat) :
    (s.drawBit px py).video.wf (s.config.W * s.config.H) := by
  unfold State.drawBit
  by_cases h1 : s.onScreen px py = true
  · have hp : px < s.config.W ∧ py < s.config.H := by simpa [State.onScreen] using h1
    rw [if_pos h1]
    split
    · exact State.video_wf_togglePixel (s.setReg vF collisionFlag) h hp.1 hp.2
    · exact State.video_wf_togglePixel s h hp.1 hp.2
  · rw [if_neg h1]; exact h

/-- The pixels c = 0 to n − 1 of a sprite row: `drawRow` is this loop for n = 8. -/
def State.drawCols (ox py : Nat) (b : Byte) (n : Nat) : State :=
  (List.range n).foldl (fun t c => if spriteBit b c then t.drawBit (ox + c) py else t) s

theorem State.drawRow_eq_drawCols (ox py : Nat) (b : Byte) : s.drawRow ox py b = s.drawCols ox py b 8 := rfl

theorem State.drawCols_succ (ox py : Nat) (b : Byte) (n : Nat) :
    s.drawCols ox py b (n + 1) =
      if spriteBit b n then (s.drawCols ox py b n).drawBit (ox + n) py else s.drawCols ox py b n := by
  simp [State.drawCols, List.range_succ]

theorem State.drawCols_eq (ox py : Nat) (b : Byte) (n : Nat) :
    s.drawCols ox py b n = { s with V := (s.drawCols ox py b n).V, video := (s.drawCols ox py b n).video } := by
  induction n with
  | zero => rfl
  | succ n ih =>
    rw [State.drawCols_succ]
    split
    · rw [State.drawBit_eq, ih]
    · exact ih

theorem State.drawCols_config (ox py : Nat) (b : Byte) (n : Nat) : (s.drawCols ox py b n).config = s.config := by
  rw [State.drawCols_eq]

/-- The screen after n pixels of a sprite row. -/
theorem State.pixel_drawCols (ox py : Nat) (b : Byte) (n : Nat) {x y : Nat} (hx : x < s.config.W) (hy : y < s.config.H) :
    (s.drawCols ox py b n).pixel x y =
      (s.pixel x y ^^ decide (y = py ∧ ox ≤ x ∧ x < ox + n ∧ spriteBit b (x - ox) = true)) := by
  induction n with
  | zero =>
    have : ¬ (y = py ∧ ox ≤ x ∧ x < ox + 0 ∧ spriteBit b (x - ox) = true) := by omega
    simp only [this, decide_false, Bool.xor_false]; rfl
  | succ n ih =>
    rw [State.drawCols_succ]
    by_cases hb : spriteBit b n = true
    · rw [if_pos hb, State.pixel_drawBit _ _ _ (by rwa [State.drawCols_config]) (by rwa [State.drawCols_config]), ih]
      by_cases he : x = ox + n ∧ y = py
      · obtain ⟨rfl, rfl⟩ := he
        simp [hb]
      · rw [if_neg he]
        congr 1
        simp only [decide_eq_decide]
        constructor
        · rintro ⟨h1, h2, h3, h4⟩; exact ⟨h1, h2, by omega, h4⟩
        · rintro ⟨h1, h2, h3, h4⟩; exact ⟨h1, h2, by omega, h4⟩
    · rw [if_neg hb, ih]
      congr 1
      simp only [decide_eq_decide]
      constructor
      · rintro ⟨h1, h2, h3, h4⟩; exact ⟨h1, h2, by omega, h4⟩
      · rintro ⟨h1, h2, h3, h4⟩
        refine ⟨h1, h2, ?_, h4⟩
        by_contra hc
        rw [show x - ox = n by omega] at h4
        exact hb h4

/-- Whether one of the pixels c = 0 to n − 1 of a sprite row is a set bit that falls on a lit cell of the screen. -/
def State.rowHits (ox py : Nat) (b : Byte) (n : Nat) : Bool :=
  (List.range n).any fun c => spriteBit b c && s.onScreen (ox + c) py && s.pixel (ox + c) py

theorem State.rowHits_succ (ox py : Nat) (b : Byte) (n : Nat) :
    s.rowHits ox py b (n + 1) =
      (s.rowHits ox py b n || (spriteBit b n && s.onScreen (ox + n) py && s.pixel (ox + n) py)) := by
  simp [State.rowHits, List.range_succ]

/-- The registers after n pixels of a sprite row: VF is 1 if one of them hit a lit cell, all else as before. -/
theorem State.reg_drawCols (ox py : Nat) (b : Byte) (n : Nat) (r : Nibble) :
    (s.drawCols ox py b n).reg r = if r = vF ∧ s.rowHits ox py b n = true then 1 else s.reg r := by
  induction n with
  | zero => simp [State.drawCols, State.rowHits]
  | succ n ih =>
    have hon : (s.drawCols ox py b n).onScreen (ox + n) py = s.onScreen (ox + n) py := by rw [State.drawCols_eq]; rfl
    have hpx : s.onScreen (ox + n) py = true →
        (s.drawCols ox py b n).pixel (ox + n) py = s.pixel (ox + n) py := by
      intro hs
      have hp : ox + n < s.config.W ∧ py < s.config.H := by simpa [State.onScreen] using hs
      rw [State.pixel_drawCols _ _ _ _ _ hp.1 hp.2]; simp
    rw [State.drawCols_succ, State.rowHits_succ]
    by_cases hb : spriteBit b n = true
    · rw [if_pos hb, State.reg_drawBit, ih, hon]
      by_cases hs : s.onScreen (ox + n) py = true
      · rw [hpx hs]
        by_cases hr : r = vF <;> cases s.rowHits ox py b n <;> cases s.pixel (ox + n) py <;> simp [hr, hb, hs]
      · by_cases hr : r = vF <;> cases s.rowHits ox py b n <;> simp [hr, hs]
    · rw [if_neg hb, ih]; simp [hb]

theorem State.video_wf_drawCols (h : s.video.wf (s.config.W * s.config.H)) (ox py : Nat) (b : Byte) (n : Nat) :
    (s.drawCols ox py b n).video.wf (s.config.W * s.config.H) := by
  induction n with
  | zero => exact h
  | succ n ih =>
    rw [State.drawCols_succ]
    split
    · have := State.video_wf_drawBit (s.drawCols ox py b n) (by rwa [State.drawCols_config]) (ox + n) py
      rwa [State.drawCols_config] at this
    · exact ih

theorem State.drawRows_succ (ox oy n : Nat) :
    s.drawRows ox oy (n + 1) =
      (s.drawRows ox oy n).drawRow ox (oy + n) ((s.drawRows ox oy n).memRead ((s.drawRows ox oy n).indexed n)) := by
  simp [State.drawRows, List.range_succ]

/-- A draw changes the registers and the video buffer alone. -/
theorem State.drawRows_eq (ox oy n : Nat) :
    s.drawRows ox oy n = { s with V := (s.drawRows ox oy n).V, video := (s.drawRows ox oy n).video } := by
  induction n with
  | zero => rfl
  | succ n ih => rw [State.drawRows_succ, State.drawRow_eq_drawCols, State.drawCols_eq, ih]

/-- The screen after a draw: each cell under a set sprite bit has flipped, every other cell is as before (R183). -/
theorem State.pixel_drawRows (ox oy n : Nat) {x y : Nat} (hx : x < s.config.W) (hy : y < s.config.H) :
    (s.drawRows ox oy n).pixel x y =
      (s.pixel x y ^^ decide (oy ≤ y ∧ y < oy + n ∧ ox ≤ x ∧ x < ox + 8 ∧
        spriteBit (s.memRead (s.indexed (y - oy))) (x - ox) = true)) := by
  induction n with
  | zero =>
    have : ¬ (oy ≤ y ∧ y < oy + 0 ∧ ox ≤ x ∧ x < ox + 8 ∧
        spriteBit (s.memRead (s.indexed (y - oy))) (x - ox) = true) := by omega
    simp only [this, decide_false, Bool.xor_false]; rfl
  | succ n ih =>
    have hc : (s.drawRows ox oy n).config = s.config := by rw [State.drawRows_eq]
    have hm : (s.drawRows ox oy n).memRead ((s.drawRows ox oy n).indexed n) = s.memRead (s.indexed n) := by
      rw [State.drawRows_eq]; rfl
    rw [State.drawRows_succ, State.drawRow_eq_drawCols,
      State.pixel_drawCols _ _ _ _ _ (by rwa [hc]) (by rwa [hc]), ih, hm, Bool.xor_assoc]
    congr 1
    by_cases hrow : y = oy + n
    · subst hrow
      simp
    · have : (oy ≤ y ∧ y < oy + n) ↔ (oy ≤ y ∧ y < oy + (n + 1)) := by omega
      simp only [hrow, false_and, decide_false, Bool.xor_false, ← and_assoc, this]

/-- Whether one of the rows 0 to n − 1 of the sprite hits a lit cell of the screen. -/
def State.spriteHits (ox oy n : Nat) : Bool :=
  (List.range n).any fun k => s.rowHits ox (oy + k) (s.memRead (s.indexed k)) 8

theorem State.rowHits_congr {t : State} (ht : t.config = s.config) (ox py : Nat) (b : Byte) (n : Nat)
    (hp : ∀ x, x < s.config.W → py < s.config.H → t.pixel x py = s.pixel x py) :
    t.rowHits ox py b n = s.rowHits ox py b n := by
  unfold State.rowHits
  congr 1
  funext c
  have hon : t.onScreen (ox + c) py = s.onScreen (ox + c) py := by unfold State.onScreen; rw [ht]
  rw [hon]
  by_cases hs : s.onScreen (ox + c) py = true
  · have h2 : ox + c < s.config.W ∧ py < s.config.H := by simpa [State.onScreen] using hs
    rw [hp _ h2.1 h2.2]
  · simp [hs]

/-- The registers after a draw: VF is 1 if a set sprite bit hit a lit cell, all else as before (R183). -/
theorem State.reg_drawRows (ox oy n : Nat) (r : Nibble) :
    (s.drawRows ox oy n).reg r = if r = vF ∧ s.spriteHits ox oy n = true then 1 else s.reg r := by
  induction n with
  | zero => simp [State.drawRows, State.spriteHits]
  | succ n ih =>
    have hc : (s.drawRows ox oy n).config = s.config := by rw [State.drawRows_eq]
    have hm : (s.drawRows ox oy n).memRead ((s.drawRows ox oy n).indexed n) = s.memRead (s.indexed n) := by
      rw [State.drawRows_eq]; rfl
    have hh : (s.drawRows ox oy n).rowHits ox (oy + n) (s.memRead (s.indexed n)) 8 =
        s.rowHits ox (oy + n) (s.memRead (s.indexed n)) 8 := by
      refine s.rowHits_congr hc _ _ _ _ fun x hx hy => ?_
      rw [State.pixel_drawRows _ _ _ _ hx hy]
      simp
    have hs : s.spriteHits ox oy (n + 1) =
        (s.spriteHits ox oy n || s.rowHits ox (oy + n) (s.memRead (s.indexed n)) 8) := by
      simp [State.spriteHits, List.range_succ]
    rw [State.drawRows_succ, State.drawRow_eq_drawCols, State.reg_drawCols, ih, hm, hh, hs]
    by_cases hr : r = vF <;> cases s.spriteHits ox oy n <;>
      cases s.rowHits ox (oy + n) (s.memRead (s.indexed n)) 8 <;> simp [hr]

theorem State.video_wf_drawRows (h : s.video.wf (s.config.W * s.config.H)) (ox oy n : Nat) :
    (s.drawRows ox oy n).video.wf (s.config.W * s.config.H) := by
  induction n with
  | zero => exact h
  | succ n ih =>
    have hc : (s.drawRows ox oy n).config = s.config := by rw [State.drawRows_eq]
    rw [State.drawRows_succ, State.drawRow_eq_drawCols]
    have := State.video_wf_drawCols (s.drawRows ox oy n) (by rwa [hc]) ox (oy + n)
      ((s.drawRows ox oy n).memRead ((s.drawRows ox oy n).indexed n)) 8
    rwa [hc] at this

/-! ### The cycle driver's inputs -/

@[simp] theorem State.fetchWord_setKeypad (k : BitVec 16) : (s.setKeypad k).fetchWord = s.fetchWord := rfl

end Sys2Proof.Machine
end

