-- ==== Sys2Proof/Laws/Host.lean ====
section
/-! SUPPORT. The host's actions taken apart: what `boot` answers, and what an action leaves of the core as the host has it
(10_state.md R41; 70_reset_and_hazards.md R260, R263). -/

namespace Sys2Proof.Machine

/-! ### `boot` -/

theorem bootWith_of_fits (c : Config) (d : Nat) {rom : List Byte} (h : romFits rom) :
    bootWith c d rom = .next ((State.resetWith c d).loadRom rom) := if_pos h

theorem bootWith_of_oversized (c : Config) (d : Nat) {rom : List Byte} (h : ¬ romFits rom) :
    bootWith c d rom = .refused .romTooLarge := if_neg h

/-- `boot` reads of the state before it the configuration and the count of random bytes alone (R260: "it replaces the whole
state"). -/
theorem State.boot_congr {s t : State} (hc : s.config = t.config) (hd : s.draws = t.draws) (rom : List Byte) :
    s.boot rom = t.boot rom := by
  unfold State.boot; rw [hc, hd]

/-! ### The core as the host has it -/

@[simp] theorem HostedCore.perform_started (a : HostAction) (s : State) :
    (HostedCore.started s).perform a = Sys2Proof.Machine.perform a s := rfl

/-- A `boot` answers the same whether or not there is a state. -/
theorem HostedCore.perform_boot (core : HostedCore) (rom : List Byte) :
    core.perform (.boot rom) = bootWith core.config core.draws rom := by cases core <;> rfl

theorem HostedCore.after_of_next {core : HostedCore} {a : HostAction} {t : State} (h : core.perform a = .next t) :
    core.after a = .started t := by
  unfold HostedCore.after; rw [h]

theorem HostedCore.after_of_refused {core : HostedCore} {a : HostAction} {r : Refusal} (h : core.perform a = .refused r) :
    core.after a = core.afterRefusal a := by
  unfold HostedCore.after; rw [h]

theorem performAll_nil (core : HostedCore) : performAll [] core = core := rfl

theorem performAll_cons (a : HostAction) (as : List HostAction) (core : HostedCore) :
    performAll (a :: as) core = performAll as (core.after a) := rfl

theorem performAll_append (as bs : List HostAction) (core : HostedCore) :
    performAll (as ++ bs) core = performAll bs (performAll as core) := List.foldl_append

end Sys2Proof.Machine
end

