-- ==== Sys2Proof/Laws/PerInstr.lean ====
section
/-! SUPPORT. Statements for all instructions, made per instruction. Family `RowMatches`: the row an instruction's constructor
stands for is a row of the opcode map, and the instruction's word selects it (30_encoding.md R84, R89). -/

namespace Sys2Proof.Laws

/-! ### Masks over words put together from fields -/

theorem mask_nnn (a : Nibble) (nnn : Addr) : (a ++ nnn : Word) &&& 0xF000 = a ++ 0x000#12 := by
  have h : (a ++ nnn) &&& (0xF#4 ++ 0x000#12) = (a &&& 0xF#4) ++ (nnn &&& 0x000#12) := BitVec.and_append
  rwa [BitVec.and_zero, show (0xF#4 : Nibble) = BitVec.allOnes 4 from rfl, BitVec.and_allOnes] at h

theorem mask_op_kk (a x : Nibble) (kk : Byte) : (a ++ x ++ kk : Word) &&& 0xF000 = a ++ 0x0#4 ++ 0x00#8 := by
  have h1 : (a ++ x) &&& (0xF#4 ++ 0x0#4) = (a &&& 0xF#4) ++ (x &&& 0x0#4) := BitVec.and_append
  have h2 : (a ++ x ++ kk) &&& (0xF#4 ++ 0x0#4 ++ 0x00#8) = ((a ++ x) &&& (0xF#4 ++ 0x0#4)) ++ (kk &&& 0x00#8) :=
    BitVec.and_append
  rw [h1] at h2
  rwa [BitVec.and_zero, BitVec.and_zero, show (0xF#4 : Nibble) = BitVec.allOnes 4 from rfl, BitVec.and_allOnes] at h2

theorem mask_op_kk_low (a x : Nibble) (kk : Byte) : (a ++ x ++ kk : Word) &&& 0xF0FF = a ++ 0x0#4 ++ kk := by
  have h1 : (a ++ x) &&& (0xF#4 ++ 0x0#4) = (a &&& 0xF#4) ++ (x &&& 0x0#4) := BitVec.and_append
  have h2 : (a ++ x ++ kk) &&& (0xF#4 ++ 0x0#4 ++ 0xFF#8) = ((a ++ x) &&& (0xF#4 ++ 0x0#4)) ++ (kk &&& 0xFF#8) :=
    BitVec.and_append
  rw [h1] at h2
  rwa [BitVec.and_zero, show (0xF#4 : Nibble) = BitVec.allOnes 4 from rfl, show (0xFF#8 : Byte) = BitVec.allOnes 8 from rfl,
    BitVec.and_allOnes, BitVec.and_allOnes] at h2

theorem mask_op_n (a x y n : Nibble) : (a ++ x ++ y ++ n : Word) &&& 0xF00F = a ++ 0x0#4 ++ 0x0#4 ++ n := by
  have h1 : (a ++ x) &&& (0xF#4 ++ 0x0#4) = (a &&& 0xF#4) ++ (x &&& 0x0#4) := BitVec.and_append
  have h2 : (a ++ x ++ y) &&& (0xF#4 ++ 0x0#4 ++ 0x0#4) = ((a ++ x) &&& (0xF#4 ++ 0x0#4)) ++ (y &&& 0x0#4) :=
    BitVec.and_append
  have h3 : (a ++ x ++ y ++ n) &&& (0xF#4 ++ 0x0#4 ++ 0x0#4 ++ 0xF#4) =
      ((a ++ x ++ y) &&& (0xF#4 ++ 0x0#4 ++ 0x0#4)) ++ (n &&& 0xF#4) := BitVec.and_append
  rw [h2, h1] at h3
  rwa [BitVec.and_zero, BitVec.and_zero, show (0xF#4 : Nibble) = BitVec.allOnes 4 from rfl, BitVec.and_allOnes,
    BitVec.and_allOnes] at h3

theorem mask_op_xyn (a x y n : Nibble) : (a ++ x ++ y ++ n : Word) &&& 0xF000 = a ++ 0x0#4 ++ 0x0#4 ++ 0x0#4 := by
  have h1 : (a ++ x) &&& (0xF#4 ++ 0x0#4) = (a &&& 0xF#4) ++ (x &&& 0x0#4) := BitVec.and_append
  have h2 : (a ++ x ++ y) &&& (0xF#4 ++ 0x0#4 ++ 0x0#4) = ((a ++ x) &&& (0xF#4 ++ 0x0#4)) ++ (y &&& 0x0#4) :=
    BitVec.and_append
  have h3 : (a ++ x ++ y ++ n) &&& (0xF#4 ++ 0x0#4 ++ 0x0#4 ++ 0x0#4) =
      ((a ++ x ++ y) &&& (0xF#4 ++ 0x0#4 ++ 0x0#4)) ++ (n &&& 0x0#4) := BitVec.and_append
  rw [h2, h1] at h3
  rwa [BitVec.and_zero, BitVec.and_zero, BitVec.and_zero, show (0xF#4 : Nibble) = BitVec.allOnes 4 from rfl,
    BitVec.and_allOnes] at h3

/-! ### The family -/

/-- The instruction's row is a row of R84, and the instruction's word selects it. -/
def RowMatches.Statement (i : Instr) : Prop := i.row ∈ opcodeMap ∧ i.row.selects (encode i) = true

theorem row_mem_opcodeMap (i : Instr) : i.row ∈ opcodeMap := by
  cases i <;> (simp only [Instr.row]; decide)

theorem RowMatches.cls : RowMatches.Statement (.cls) := ⟨by decide, by decide⟩
theorem RowMatches.ret : RowMatches.Statement (.ret) := ⟨by decide, by decide⟩
theorem RowMatches.jp (nnn : Addr) : RowMatches.Statement (.jp nnn) := ⟨row_mem_opcodeMap _, beq_iff_eq.2 (mask_nnn _ _)⟩
theorem RowMatches.call (nnn : Addr) : RowMatches.Statement (.call nnn) := ⟨row_mem_opcodeMap _, beq_iff_eq.2 (mask_nnn _ _)⟩
theorem RowMatches.seImm (x : Nibble) (kk : Byte) : RowMatches.Statement (.seImm x kk) := ⟨row_mem_opcodeMap _, beq_iff_eq.2 (mask_op_kk _ _ _)⟩
theorem RowMatches.sneImm (x : Nibble) (kk : Byte) : RowMatches.Statement (.sneImm x kk) := ⟨row_mem_opcodeMap _, beq_iff_eq.2 (mask_op_kk _ _ _)⟩
theorem RowMatches.seReg (x : Nibble) (y : Nibble) : RowMatches.Statement (.seReg x y) := ⟨row_mem_opcodeMap _, beq_iff_eq.2 (mask_op_xyn _ _ _ _)⟩
theorem RowMatches.ldImm (x : Nibble) (kk : Byte) : RowMatches.Statement (.ldImm x kk) := ⟨row_mem_opcodeMap _, beq_iff_eq.2 (mask_op_kk _ _ _)⟩
theorem RowMatches.addImm (x : Nibble) (kk : Byte) : RowMatches.Statement (.addImm x kk) := ⟨row_mem_opcodeMap _, beq_iff_eq.2 (mask_op_kk _ _ _)⟩
theorem RowMatches.ldReg (x : Nibble) (y : Nibble) : RowMatches.Statement (.ldReg x y) := ⟨row_mem_opcodeMap _, beq_iff_eq.2 (mask_op_n _ _ _ _)⟩
theorem RowMatches.orReg (x : Nibble) (y : Nibble) : RowMatches.Statement (.orReg x y) := ⟨row_mem_opcodeMap _, beq_iff_eq.2 (mask_op_n _ _ _ _)⟩
theorem RowMatches.andReg (x : Nibble) (y : Nibble) : RowMatches.Statement (.andReg x y) := ⟨row_mem_opcodeMap _, beq_iff_eq.2 (mask_op_n _ _ _ _)⟩
theorem RowMatches.xorReg (x : Nibble) (y : Nibble) : RowMatches.Statement (.xorReg x y) := ⟨row_mem_opcodeMap _, beq_iff_eq.2 (mask_op_n _ _ _ _)⟩
theorem RowMatches.addReg (x : Nibble) (y : Nibble) : RowMatches.Statement (.addReg x y) := ⟨row_mem_opcodeMap _, beq_iff_eq.2 (mask_op_n _ _ _ _)⟩
theorem RowMatches.subReg (x : Nibble) (y : Nibble) : RowMatches.Statement (.subReg x y) := ⟨row_mem_opcodeMap _, beq_iff_eq.2 (mask_op_n _ _ _ _)⟩
theorem RowMatches.shr (x : Nibble) : RowMatches.Statement (.shr x) := ⟨row_mem_opcodeMap _, beq_iff_eq.2 (mask_op_n _ _ _ _)⟩
theorem RowMatches.subnReg (x : Nibble) (y : Nibble) : RowMatches.Statement (.subnReg x y) := ⟨row_mem_opcodeMap _, beq_iff_eq.2 (mask_op_n _ _ _ _)⟩
theorem RowMatches.shl (x : Nibble) : RowMatches.Statement (.shl x) := ⟨row_mem_opcodeMap _, beq_iff_eq.2 (mask_op_n _ _ _ _)⟩
theorem RowMatches.sneReg (x : Nibble) (y : Nibble) : RowMatches.Statement (.sneReg x y) := ⟨row_mem_opcodeMap _, beq_iff_eq.2 (mask_op_xyn _ _ _ _)⟩
theorem RowMatches.ldI (nnn : Addr) : RowMatches.Statement (.ldI nnn) := ⟨row_mem_opcodeMap _, beq_iff_eq.2 (mask_nnn _ _)⟩
theorem RowMatches.jpV0 (nnn : Addr) : RowMatches.Statement (.jpV0 nnn) := ⟨row_mem_opcodeMap _, beq_iff_eq.2 (mask_nnn _ _)⟩
theorem RowMatches.rnd (x : Nibble) (kk : Byte) : RowMatches.Statement (.rnd x kk) := ⟨row_mem_opcodeMap _, beq_iff_eq.2 (mask_op_kk _ _ _)⟩
theorem RowMatches.drw (x : Nibble) (y : Nibble) (n : Nibble) : RowMatches.Statement (.drw x y n) := ⟨row_mem_opcodeMap _, beq_iff_eq.2 (mask_op_xyn _ _ _ _)⟩
theorem RowMatches.skp (x : Nibble) : RowMatches.Statement (.skp x) := ⟨row_mem_opcodeMap _, beq_iff_eq.2 (mask_op_kk_low _ _ _)⟩
theorem RowMatches.sknp (x : Nibble) : RowMatches.Statement (.sknp x) := ⟨row_mem_opcodeMap _, beq_iff_eq.2 (mask_op_kk_low _ _ _)⟩
theorem RowMatches.ldFromDT (x : Nibble) : RowMatches.Statement (.ldFromDT x) := ⟨row_mem_opcodeMap _, beq_iff_eq.2 (mask_op_kk_low _ _ _)⟩
theorem RowMatches.ldKey (x : Nibble) : RowMatches.Statement (.ldKey x) := ⟨row_mem_opcodeMap _, beq_iff_eq.2 (mask_op_kk_low _ _ _)⟩
theorem RowMatches.ldDT (x : Nibble) : RowMatches.Statement (.ldDT x) := ⟨row_mem_opcodeMap _, beq_iff_eq.2 (mask_op_kk_low _ _ _)⟩
theorem RowMatches.ldST (x : Nibble) : RowMatches.Statement (.ldST x) := ⟨row_mem_opcodeMap _, beq_iff_eq.2 (mask_op_kk_low _ _ _)⟩
theorem RowMatches.addI (x : Nibble) : RowMatches.Statement (.addI x) := ⟨row_mem_opcodeMap _, beq_iff_eq.2 (mask_op_kk_low _ _ _)⟩
theorem RowMatches.ldF (x : Nibble) : RowMatches.Statement (.ldF x) := ⟨row_mem_opcodeMap _, beq_iff_eq.2 (mask_op_kk_low _ _ _)⟩
theorem RowMatches.ldB (x : Nibble) : RowMatches.Statement (.ldB x) := ⟨row_mem_opcodeMap _, beq_iff_eq.2 (mask_op_kk_low _ _ _)⟩
theorem RowMatches.storeRegs (x : Nibble) : RowMatches.Statement (.storeRegs x) := ⟨row_mem_opcodeMap _, beq_iff_eq.2 (mask_op_kk_low _ _ _)⟩
theorem RowMatches.loadRegs (x : Nibble) : RowMatches.Statement (.loadRegs x) := ⟨row_mem_opcodeMap _, beq_iff_eq.2 (mask_op_kk_low _ _ _)⟩

end Sys2Proof.Laws
end

