-- ==== Sys2Proof/Laws/Step.lean ====
section
/-! SUPPORT. The step taken apart, one lemma per way it can go (30_encoding.md R90), and what `withFetchWord` makes the next step
do. -/

namespace Sys2Proof.Machine

variable (s : State)

/-- A faulted core: no effect. -/
theorem step_of_fault (h : s.fault ≠ none) : step s = .next s := by
  unfold step cycle; rw [if_pos (Option.isSome_iff_ne_none.2 h)]

/-- A running core whose word decodes runs that instruction on the advanced state. -/
theorem step_of_instr (h : s.fault = none) {i : Instr} (hd : decode s.fetchWord = .instr i) :
    step s = finish s.fetchWord (exec i s.advance) := by
  unfold step cycle dispatch; rw [hd]; simp [h]

/-- A running core whose word is unknown reports it. -/
theorem step_of_unknown (h : s.fault = none) {why : UnknownWord} (hd : decode s.fetchWord = .unknown why) :
    step s = .next ((s.advance.reportUnknown s.fetchWord s.pc).retire s.fetchWord) := by
  unfold step cycle dispatch; rw [hd]; simp [h, finish]

/-- Where an instruction's word is placed, the next step fetches it. -/
theorem fetchWord_withFetchWord (w : Nat) (hw : w < 2 ^ 16) :
    (s.withFetchWord 16 w).fetchWord = BitVec.ofNat 16 w := by
  unfold State.withFetchWord State.placeFetchWord
  rw [Nat.mod_eq_of_lt hw]
  exact State.memRead2_storeWord s s.pc _

theorem fault_withFetchWord (n w : Nat) : (s.withFetchWord n w).fault = none := rfl

end Sys2Proof.Machine
end

