-- ==== Sys2Proof/Tests/Slice0.lean ====
section
/-! SUPPORT. The model's own tests. The expected values come from the tables and examples of spec/95_test_vectors.md (the id of a
row stands in the comment of its test) or from the encodings of 30_encoding.md R84. Then, for each statement with hypotheses, a
witness that they can be met. -/

namespace Sys2Proof.Tests

open Sys2Proof.Machine Sys2Proof.Claims

/-! ### Helpers -/

/-- The state right after reset with the word `w` at 0x200. -/
def prog (w : Nat) : State := State.reset.withFetchWord 16 w

/-- `prog w` with V1 = a and V2 = b. -/
def prog12 (w : Nat) (a b : Byte) : State := ((prog w).setReg 1 a).setReg 2 b

/-- The default machine with the delay timer driven by `tick`. -/
def external : Config := { defaultConfig with timerMode := .externalTick }

/-- What `f` reads from the state after one step, if there is one. -/
def after {α : Type} (s : State) (f : State → α) : Option α :=
  match step s with
  | .next t => some (f t)
  | _ => none

/-- What `f` reads from the core's state, if it has one. -/
def seen {α : Type} (core : HostedCore) (f : State → α) : Option α :=
  match core with
  | .started s => some (f s)
  | .notStarted _ _ => none

/-- A ROM one byte too long (RS4). -/
def tooLong : List Byte := List.replicate 3585 0xFF

theorem tooLong_oversized : ¬ romFits tooLong := by rw [romFits, tooLong, List.length_replicate]; decide

theorem perform_tooLong (core : HostedCore) : core.perform (.boot tooLong) = .refused .romTooLarge := by
  rw [HostedCore.perform_boot, bootWith_of_oversized _ _ tooLong_oversized]

theorem after_tooLong (core : HostedCore) : core.after (.boot tooLong) = .notStarted core.config core.draws :=
  HostedCore.after_of_refused (perform_tooLong core)

theorem tooLong_length : tooLong.length > 3584 := by rw [tooLong, List.length_replicate]; decide

/-- V1, VF and `pc`. -/
def v1FlagPc (s : State) : Byte × Byte × Word := (s.reg 1, s.reg 15, s.pc)

/-- The fault port. -/
def faultPc (s : State) : Option (Nat × Word) × Word := (s.faultOut, s.pc)

/-- A state whose call stack holds `n` entries. -/
def withSP (s : State) (n : Fin 17) : State := { s with SP := n }

/-- A state with the cells of these row-major indexes on. -/
def withVideo (s : State) (v : Video) : State := { s with video := v }

/-- A state with these keys pressed, one bit each. -/
def withKeys (s : State) (k : BitVec 16) : State := s.setKeypad k

/-! ### Ill-formed terms are refused -/

theorem test_config_width_zero : ¬ Config.wf { defaultConfig with W := 0 } := by decide
theorem test_config_height_zero : ¬ Config.wf { defaultConfig with H := 0 } := by decide
theorem test_config_one_by_one : Config.wf { defaultConfig with W := 1, H := 1 } := by decide
/-- RS4. -/
theorem test_rom_too_long : ¬ romFits tooLong := tooLong_oversized
/-- RS3. -/
theorem test_rom_longest : romFits (List.replicate 3584 0xFF) := by rw [romFits, List.length_replicate]; decide

/-! ### Decoding: for every constructor a word written out, digit by digit, from its row of R84 -/

theorem test_decode_cls : decode 0b0000000011100000 = .instr .cls := by decide
theorem test_decode_ret : decode 0b0000000011101110 = .instr .ret := by decide
theorem test_decode_jp : decode 0b0001101010111100 = .instr (.jp 0xABC) := by decide
theorem test_decode_call : decode 0b0010001000010000 = .instr (.call 0x210) := by decide
theorem test_decode_seImm : decode 0b0011001101000010 = .instr (.seImm 3 0x42) := by decide
theorem test_decode_sneImm : decode 0b0100001101000010 = .instr (.sneImm 3 0x42) := by decide
theorem test_decode_seReg : decode 0b0101000100100001 = .instr (.seReg 1 2) := by decide
theorem test_decode_ldImm : decode 0b0110101000000101 = .instr (.ldImm 0xA 0x05) := by decide
theorem test_decode_addImm : decode 0b0111000111111111 = .instr (.addImm 1 0xFF) := by decide
theorem test_decode_ldReg : decode 0b1000000100100000 = .instr (.ldReg 1 2) := by decide
theorem test_decode_orReg : decode 0b1000000100100001 = .instr (.orReg 1 2) := by decide
theorem test_decode_andReg : decode 0b1000000100100010 = .instr (.andReg 1 2) := by decide
theorem test_decode_xorReg : decode 0b1000000100100011 = .instr (.xorReg 1 2) := by decide
theorem test_decode_addReg : decode 0b1000111100010100 = .instr (.addReg 0xF 1) := by decide
theorem test_decode_subReg : decode 0b1000000111110101 = .instr (.subReg 1 0xF) := by decide
theorem test_decode_shr : decode 0b1000000100100110 = .instr (.shr 1) := by decide
theorem test_decode_subnReg : decode 0b1000111100010111 = .instr (.subnReg 0xF 1) := by decide
theorem test_decode_shl : decode 0b1000111011101110 = .instr (.shl 0xE) := by decide
theorem test_decode_sneReg : decode 0b1001101010110111 = .instr (.sneReg 0xA 0xB) := by decide
theorem test_decode_ldI : decode 0b1010000100100011 = .instr (.ldI 0x123) := by decide
theorem test_decode_jpV0 : decode 0b1011001100000000 = .instr (.jpV0 0x300) := by decide
theorem test_decode_rnd : decode 0b1100001100001111 = .instr (.rnd 3 0x0F) := by decide
theorem test_decode_drw : decode 0b1101000100100101 = .instr (.drw 1 2 5) := by decide
theorem test_decode_skp : decode 0b1110010010011110 = .instr (.skp 4) := by decide
theorem test_decode_sknp : decode 0b1110010010100001 = .instr (.sknp 4) := by decide
theorem test_decode_ldFromDT : decode 0b1111000100000111 = .instr (.ldFromDT 1) := by decide
theorem test_decode_ldKey : decode 0b1111001100001010 = .instr (.ldKey 3) := by decide
theorem test_decode_ldDT : decode 0b1111011000010101 = .instr (.ldDT 6) := by decide
theorem test_decode_ldST : decode 0b1111001100011000 = .instr (.ldST 3) := by decide
theorem test_decode_addI : decode 0b1111001000011110 = .instr (.addI 2) := by decide
theorem test_decode_ldF : decode 0b1111011100101001 = .instr (.ldF 7) := by decide
theorem test_decode_ldB : decode 0b1111100100110011 = .instr (.ldB 9) := by decide
theorem test_decode_storeRegs : decode 0b1111001001010101 = .instr (.storeRegs 2) := by decide
theorem test_decode_loadRegs : decode 0b1111100001100101 = .instr (.loadRegs 8) := by decide

/-- DE1 and DE2: group 0x0 takes the whole of `nnn`. -/
theorem test_unknown_sys : [0x0123, 0x00E1, 0x00EF, 0x0000, 0x0FFF].map decode = List.replicate 5 (.unknown .sysWord) := by decide
/-- DE3: group 0x8. -/
theorem test_unknown_alu : [0x8008, 0x8009, 0x800D, 0x800F].map decode = List.replicate 4 (.unknown .aluSecondary) := by decide
/-- DE4: group 0xE. -/
theorem test_unknown_key : [0xE09F, 0xE0A0, 0xE000].map decode = List.replicate 3 (.unknown .keySecondary) := by decide
/-- DE5: group 0xF. -/
theorem test_unknown_misc : [0xF000, 0xF008, 0xF019, 0xF0FF].map decode = List.replicate 4 (.unknown .miscSecondary) := by decide

theorem test_decode_bytes : decodeBytes [0x6A, 0x05, 0x12] = some (.ldImm 0xA 0x05, [0x12]) := by decide
theorem test_decode_bytes_short : decodeBytes [0x6A] = none := by decide
theorem test_table_word : decodeTableWord 16 0xD125 = some (.drw 1 2 5) := by decide
theorem test_table_word_unknown : decodeTableWord 16 0x0123 = none := by decide
theorem test_encode_bytes : encodeBytes (.drw 1 2 5) = [0xD1, 0x25] := by decide
/-- 30_encoding.md R88's example form. -/
theorem test_asm : (Instr.call 0x20C).asm = "CALL 0x20C" := by decide

/-! ### The cycle driver -/

/-- CY1. -/
theorem test_fetch_big_endian : after (prog 0x6A05) (fun t => (t.reg 0xA, t.opcode, t.pc)) = some (0x05, 0x6A05, 0x202) := by decide
/-- CY2 and CY3. -/
theorem test_timer_counts : after { prog 0x6000 with DT := 5 } (·.DT) = some 4 := by decide
theorem test_timer_stops_at_zero : after (prog 0x6000) (·.DT) = some 0 := by decide
/-- CY4. -/
theorem test_timer_external : after { prog 0x6000 with config := external, DT := 5 } (·.DT) = some 5 := by decide
/-- CY5. -/
theorem test_tick : State.tick { prog 0x6000 with config := external, DT := 5 } =
    .next { prog 0x6000 with config := external, DT := 4 } := rfl
/-- CY7. -/
theorem test_fetch_wraps : after (({ State.reset with pc := 0x0FFF } : State).storeWord 0x0FFF 0x1234) (·.pc) = some 0x0234 := by decide
/-- CY8. -/
theorem test_fetch_past_memory : after ({ State.reset with pc := 0x1000 } : State) (fun t => (t.unknown, t.pc)) =
    some (some { word := 0x0000, addr := 0x1000 }, 0x1002) := by decide
/-- CY9. -/
theorem test_pc_wraps : after (({ State.reset with pc := 0xFFFE } : State).storeWord 0xFFFE 0x6000) (·.pc) = some 0x0000 := by decide
/-- DE1. -/
theorem test_unknown_report : after { prog 0x0123 with DT := 2 } (fun t => (t.unknown, t.pc, t.DT, t.fault)) =
    some (some { word := 0x0123, addr := 0x200 }, 0x202, 1, none) := by decide
/-- CY10. -/
theorem test_faulted_core : after { prog 0x6A05 with fault := some ⟨.stackOverflow, 0x200⟩, DT := 3 } (fun t => (t.DT, t.pc, t.reg 0xA)) =
    some (3, 0x200, 0) := by decide

/-! ### One step of each instruction -/

/-- CF1. -/
theorem test_jp : after (prog 0x1ABC) (·.pc) =
    some 0x0ABC := by decide
/-- CF6. -/
theorem test_call : after (withSP (prog 0x2400) 15) (fun t => (t.stack[15], t.SP, t.pc)) =
    some (0x0202, 16, 0x0400) := by decide
/-- CF7. -/
theorem test_call_full : after { withSP (prog 0x2400) 16 with DT := 3 } (fun t => (faultPc t, t.SP, t.DT, t.opcode)) =
    some ((some (1, 0x200), 0x200), 16, 3, 0) := by decide
/-- CF8. -/
theorem test_ret : after { prog 0x00EE with SP := 1, stack := State.reset.stack.set 0 0x0206 } (fun t => (t.pc, t.SP, t.stack[0])) =
    some (0x0206, 0, 0x0206) := by decide
/-- CF10. -/
theorem test_ret_empty : after (prog 0x00EE) faultPc =
    some (some (2, 0x200), 0x200) := by decide
/-- CF11. -/
theorem test_seImm : after (prog12 0x3142 0x42 0) (·.pc) =
    some 0x204 := by decide
/-- CF12. -/
theorem test_seImm_not : after (prog12 0x3142 0x43 0) (·.pc) =
    some 0x202 := by decide
/-- CF14. -/
theorem test_sneImm : after (prog12 0x4142 0x00 0) (·.pc) =
    some 0x204 := by decide
/-- CF13. -/
theorem test_sneImm_not : after (prog12 0x4142 0x42 0) (·.pc) =
    some 0x202 := by decide
/-- DE6. -/
theorem test_seReg : after (prog 0x5121) (fun t => (t.pc, t.unknown)) =
    some (0x204, none) := by decide
/-- L1-8. -/
theorem test_seReg_not : after (prog12 0x5120 7 8) (·.pc) =
    some 0x202 := by decide
/-- CF16. -/
theorem test_sneReg : after (prog12 0x9120 7 8) (·.pc) =
    some 0x204 := by decide
/-- CF17. -/
theorem test_sneReg_not : after (prog12 0x9120 7 7) (·.pc) =
    some 0x202 := by decide
/-- CF21. -/
theorem test_jpV0 : after ((prog 0xBFFF).setReg 0 0xFF) (·.pc) =
    some 0x10FE := by decide
/-- L1-1. -/
theorem test_ldImm_vF : after ((prog 0x6F9C).setReg 15 1) (fun t => (t.reg 15, t.pc)) =
    some (0x9C, 0x202) := by decide
/-- AL1. -/
theorem test_addImm : after ((prog12 0x7101 0xFF 0).setReg 15 0x55) v1FlagPc =
    some (0x00, 0x55, 0x202) := by decide
/-- AL4. -/
theorem test_ldReg : after (prog12 0x8120 0 0x77) v1FlagPc =
    some (0x77, 0, 0x202) := by decide
/-- AL5. -/
theorem test_orReg : after ((prog12 0x8121 0x0F 0xF0).setReg 15 1) v1FlagPc =
    some (0xFF, 1, 0x202) := by decide
/-- AL6. -/
theorem test_andReg : after (prog12 0x8122 0x3C 0x0F) v1FlagPc =
    some (0x0C, 0, 0x202) := by decide
/-- AL7. -/
theorem test_xorReg : after (prog12 0x8123 0xFF 0x0F) v1FlagPc =
    some (0xF0, 0, 0x202) := by decide
/-- L1-2. -/
theorem test_addReg : after (prog12 0x8124 0xFF 0x01) v1FlagPc =
    some (0x00, 1, 0x202) := by decide
/-- AL13. -/
theorem test_addReg_vF : after ((prog12 0x8F14 0x01 0).setReg 15 0xFF) v1FlagPc =
    some (0x01, 0x00, 0x202) := by decide
/-- AL15. -/
theorem test_subReg : after (prog12 0x8125 0x07 0x07) v1FlagPc =
    some (0x00, 0, 0x202) := by decide
/-- AL18. -/
theorem test_subReg_vF : after ((prog12 0x81F5 0x05 0).setReg 15 0x03) v1FlagPc =
    some (0x04, 1, 0x202) := by decide
/-- AL22. -/
theorem test_shr : after (prog12 0x8106 0xFF 0) v1FlagPc =
    some (0x7F, 1, 0x202) := by decide
/-- AL23. -/
theorem test_shr_vF : after ((prog 0x8F06).setReg 15 0x03) v1FlagPc =
    some (0, 0x00, 0x202) := by decide
/-- AL25. -/
theorem test_subnReg : after (prog12 0x8127 0x05 0x03) v1FlagPc =
    some (0xFE, 0, 0x202) := by decide
/-- AL27. -/
theorem test_subnReg_vF : after ((prog12 0x81F7 0x03 0).setReg 15 0x05) v1FlagPc =
    some (0xFE, 1, 0x202) := by decide
/-- L1-4. -/
theorem test_shl : after (prog12 0x810E 0x81 0) v1FlagPc =
    some (0x02, 1, 0x202) := by decide
/-- AL31. -/
theorem test_shl_vF : after ((prog 0x8F0E).setReg 15 0x81) v1FlagPc =
    some (0, 0x02, 0x202) := by decide
/-- AL33, for the random byte 0xA7: `execRnd` gives `storeRandom` the free value in its place. -/
theorem test_rnd : (State.reset.storeRandom 3 0x0F 0xA7).reg 3 = 0x07 := by decide
/-- AL34, for every random byte. -/
theorem test_rnd_zero_mask : ∃ t, step (prog 0xC300) = .next t ∧ t.reg 3 = 0x00 := by
  have hd : decode (prog 0xC300).fetchWord = .instr (.rnd 3 0x00) := by decide
  exact ⟨_, step_of_instr _ rfl hd, by
    rw [State.retire_of_no_fault _ _ rfl, State.timerPhase_eq]
    simp [State.storeRandom]⟩
/-- IM1. -/
theorem test_ldI : after { prog 0xA123 with I := 0xFFFF } (·.I) =
    some 0x0123 := by decide
/-- IM3. -/
theorem test_addI : after { prog12 0xF21E 0 0x01 with I := 0x0FFF } (fun t => (t.I, t.reg 15)) =
    some (0x1000, 0) := by decide
/-- IM4. -/
theorem test_addI_wraps : after { prog12 0xF21E 0 0x01 with I := 0xFFFF } (·.I) =
    some 0x0000 := by decide
/-- IM7. -/
theorem test_ldF : after ((prog 0xF029).setReg 0 0x0F) (·.I) =
    some 0x009B := by decide
/-- IM8. -/
theorem test_ldF_range : after { (prog 0xF029).setReg 0 0x10 with I := 0x0123 } (fun t => (faultPc t, t.I)) =
    some ((some (3, 0x200), 0x200), 0x0123) := by decide
/-- IM13. -/
theorem test_ldB : after { (prog 0xF033).setReg 0 0x7B with I := 0x0FFE } (fun t => (t.memRead 0xFFE, t.memRead 0xFFF, t.memRead 0x000, t.I)) =
    some (1, 2, 3, 0x0FFE) := by decide
/-- IM15. -/
theorem test_storeRegs : after { ((prog 0xF055).setReg 0 0xAA).setReg 1 0xBB with I := 0x300 } (fun t => (t.memRead 0x300, t.memRead 0x301, t.I)) =
    some (0xAA, 0x00, 0x300) := by decide
/-- IM17. -/
theorem test_storeRegs_wraps : after { ((prog 0xF155).setReg 0 0x11).setReg 1 0x22 with I := 0x0FFF } (fun t => (t.memRead 0xFFF, t.memRead 0x000)) =
    some (0x11, 0x22) := by decide
/-- IM18. -/
theorem test_loadRegs : after { (((prog 0xF265).setReg 3 0x77).storeWord 0x300 0x0203).storeWord 0x302 0x0405 with I := 0x300 } (fun t => (t.reg 0, t.reg 1, t.reg 2, t.reg 3, t.I)) =
    some (2, 3, 4, 0x77, 0x300) := by decide
/-- IM20. -/
theorem test_loadRegs_font : after { prog 0xF065 with I := 0x050 } (·.reg 0) =
    some 0xF0 := by decide
/-- DS1. -/
theorem test_cls : after ((withVideo (prog 0x00E0) [0, 2047]).setReg 15 1) (fun t => (t.video, t.reg 15)) =
    some ([], 1) := by decide
/-- DS10. -/
theorem test_drw_clips : after { (withVideo (prog12 0xD121 0x3C 0) [0, 60]).memWrite 0x300 0xFF with I := 0x300 } (fun t => (t.video, t.reg 15)) =
    some ([0, 61, 62, 63], 1) := by decide
/-- DS11. -/
theorem test_drw_latches : after { ((prog12 0xDF11 0x02 0).setReg 15 0x08).memWrite 0x300 0x80 with I := 0x300 } (fun t => (t.pixel 8 2, t.video.length, t.reg 15)) =
    some (true, 1, 0) := by decide
/-- KT1. -/
theorem test_skp : after (withKeys ((prog 0xE49E).setReg 4 0x05) 0x0020) (·.pc) =
    some 0x204 := by decide
/-- KT3. -/
theorem test_skp_range : after ((prog 0xE49E).setReg 4 0x10) faultPc =
    some (some (4, 0x200), 0x200) := by decide
/-- KT5. -/
theorem test_sknp : after (withKeys ((prog 0xE4A1).setReg 4 0x05) 0x0020) (·.pc) =
    some 0x202 := by decide
/-- KT6. -/
theorem test_sknp_range : after ((prog 0xE4A1).setReg 4 0xFF) faultPc =
    some (some (4, 0x200), 0x200) := by decide
/-- KT11. -/
theorem test_ldFromDT : after { prog 0xF107 with DT := 4 } (fun t => (t.reg 1, t.DT)) =
    some (4, 3) := by decide
/-- KT13. -/
theorem test_ldFromDT_external : after { prog 0xF107 with config := external, DT := 4 } (fun t => (t.reg 1, t.DT)) =
    some (4, 4) := by decide
/-- KT7. -/
theorem test_ldKey : after (withKeys (prog 0xF30A) 0x0208) (fun t => (t.reg 3, t.pc)) =
    some (3, 0x202) := by decide
/-- KT9. -/
theorem test_ldKey_waits : after { prog 0xF30A with DT := 2 } (fun t => (t.pc, t.DT, t.reg 3, t.opcode)) =
    some (0x200, 1, 0, 0xF30A) := by decide
/-- KT14. -/
theorem test_ldDT : after ((prog 0xF015).setReg 0 0x05) (·.DT) =
    some 4 := by decide
/-- KT17. -/
theorem test_ldDT_external : after { (prog 0xF015).setReg 0 0x05 with config := external } (·.DT) =
    some 5 := by decide
/-- KT18. -/
theorem test_ldST : after { (prog 0xF318).setReg 3 0x20 with DT := 2 } (fun t => (t.pc, t.DT, t.unknown)) =
    some (0x202, 1, none) := by decide

/-! ### Reset and boot -/

/-- RS1: the bytes of the ROM, the first and last glyphs, and the program counter. -/
theorem test_boot : (match State.reset.boot [0x12, 0x00] with
    | .next t => some (t.memRead 0x200, t.memRead 0x201, t.memRead 0x050, t.memRead 0x09F, t.memRead 0x0A0, t.pc)
    | _ => none) = some (0x12, 0x00, 0xF0, 0x80, 0x00, 0x200) := by decide
/-- EX8. -/
theorem test_boot_clears_fault : ({ prog 0x00EE with fault := some ⟨.stackUnderflow, 0x200⟩ } : State).boot [] =
    .next State.reset := rfl
/-- RS4, on a running core: the refused `boot` leaves no core, and its `step` is refused. -/
theorem test_refused_boot : (HostedCore.started (prog 0x6A05)).after (.boot tooLong) = .notStarted defaultConfig 0 ∧
    (HostedCore.notStarted defaultConfig 0).perform .step = .refused .notStarted :=
  ⟨after_tooLong _, rfl⟩
/-- RS4 and R263: after it, a `boot` that fits starts the core, and the step runs. -/
theorem test_boot_after_refused_boot :
    seen (performAll [.boot tooLong, .boot [0x6A, 0x05], .step] (.started (prog 0x00E0))) (fun t => (t.reg 0xA, t.pc)) =
      some (0x05, 0x202) := by
  rw [performAll_cons, after_tooLong]
  decide
/-- 70_reset_and_hazards.md R262: the glyph of A. -/
theorem test_glyph_A : [0x082, 0x083, 0x084, 0x085, 0x086].map State.reset.memRead = [0xF0, 0x90, 0xF0, 0x90, 0x90] := by decide
/-- 43_display.md R184, 10_state.md R40. -/
theorem test_video_port : (withVideo State.reset [65]).videoCell 1 1 = 0xFFFFFFFF ∧ State.reset.pitch = 256 := by decide

/-! ### Witnesses: the hypotheses of each statement can be met, clause by clause -/

/-- The step at `s` fetches the instruction `i` and answers a next state of which `p` holds. -/
def steps (s : State) (i : Instr) (p : State → Bool) : Bool :=
  decide (s.fault = none) && decide (decode s.fetchWord = .instr i) &&
    match step s with
    | .next t => p t
    | _ => false

/-- `exec` answers a next state of which `p` holds. -/
def completes (i : Instr) (s : State) (p : State → Bool) : Bool :=
  match exec i s with
  | .next t => p t
  | _ => false

/-- A faulted core. -/
def faultedState (c : Config) : State := { State.resetWith c 0 with fault := some ⟨.stackUnderflow, 0x200⟩ }

theorem witness_DontCareDigitsAreIgnored :
    decode 0x5121 = .instr (.seReg 1 2) ∧ decode 0x512F = .instr (.seReg 1 2) ∧ decode 0x5131 ≠ .instr (.seReg 1 2) := by decide
theorem witness_DecoderAgreesWithOpcodeMap : decode 0xF265 = .instr (.loadRegs 2) ∧ decode 0x0000 = .unknown .sysWord := by decide

theorem witness_StepRunsTheDecodedInstruction_faulted : (faultedState defaultConfig).fault ≠ none := by decide
theorem witness_StepRunsTheDecodedInstruction_completes :
    (prog 0x6A05).fault = none ∧ decode (prog 0x6A05).fetchWord = .instr (.ldImm 0xA 0x05) ∧
    completes (.ldImm 0xA 0x05) (prog 0x6A05).advance (fun t => t.fault.isNone) = true := by decide
theorem witness_StepRunsTheDecodedInstruction_faults :
    (prog 0x00EE).fault = none ∧ decode (prog 0x00EE).fetchWord = .instr .ret ∧
    completes .ret (prog 0x00EE).advance (fun t => t.fault.isSome) = true := by decide
theorem witness_StepRunsTheDecodedInstruction_unknown :
    (prog 0x0123).fault = none ∧ decode (prog 0x0123).fetchWord = .unknown .sysWord := by decide

/-- An unknown word at 0x200 and a known one at 0x202. -/
theorem witness_UnknownOpcodeIsReported :
    decode ((prog 0x0123).storeWord 0x202 0x6A05).fetchWord = .unknown .sysWord ∧
    after ((prog 0x0123).storeWord 0x202 0x6A05) (fun t => (t.fault, decode t.fetchWord)) =
      some (none, .instr (.ldImm 0xA 0x05)) := by decide

theorem witness_FaultEntryIsPrecise : (prog 0x00EE).fault = none ∧
    after (prog 0x00EE) (·.fault) = some (some ⟨.stackUnderflow, 0x200⟩) := by decide
theorem witness_FaultsHaveExactlyFourCauses_overflow :
    after (withSP (prog 0x2400) 16) (·.faultOut) = some (some (1, 0x200)) ∧
    after (withSP (prog 0x2400) 15) (·.faultOut) = some none := by decide
theorem witness_FaultsHaveExactlyFourCauses_underflow :
    after (prog 0x00EE) (·.faultOut) = some (some (2, 0x200)) ∧ after (withSP (prog 0x00EE) 1) (·.faultOut) = some none := by decide
theorem witness_FaultsHaveExactlyFourCauses_digit :
    after ((prog 0xF129).setReg 1 16) (·.faultOut) = some (some (3, 0x200)) ∧
    after ((prog 0xF129).setReg 1 15) (·.faultOut) = some none := by decide
theorem witness_FaultsHaveExactlyFourCauses_key :
    after ((prog 0xE19E).setReg 1 16) (·.faultOut) = some (some (4, 0x200)) ∧
    after ((prog 0xE1A1).setReg 1 15) (·.faultOut) = some none := by decide
theorem witness_FaultedCoreIsHalted : (faultedState external).fault ≠ none ∧
    (faultedState external).config.timerMode = .externalTick ∧ romFits [0x12, 0x00] := by decide

/-- A store and a draw from a state of the invariant. -/
theorem witness_StepKeepsInvariant :
    (prog 0xFF55).Inv ∧ (prog 0xD125).Inv ∧ after (prog 0xFF55) (·.fault) = some none ∧
    after (prog 0xD125) (·.fault) = some none := by decide
/-- A step that latches a fault from a state of the invariant. -/
theorem witness_StepKeepsInvariant_fault : (prog 0x00EE).Inv ∧ after (prog 0x00EE) (·.fault.isSome) = some true := by decide
/-- Both kinds of core; the second with a refused `step` before its `boot`. -/
theorem witness_HostActionsKeepInvariant : (HostedCore.started State.reset).Inv ∧ (HostedCore.notStarted external 0).Inv ∧
    seen (performAll [.step, .boot [0xF0, 0x0A], .step, .setKeys 0x0020, .tick, .step] (.notStarted external 0))
      (fun t => (t.reg 0, t.pc)) = some (5, 0x202) :=
  ⟨by unfold HostedCore.Inv; decide, by unfold HostedCore.Inv; decide, by decide⟩

theorem witness_BootEstablishesTheResetState : romFits [0x12, 0x00] ∧ romFits [] ∧ romFits (List.replicate 3584 0) := by
  refine ⟨by decide, by decide, ?_⟩; rw [romFits, List.length_replicate]; decide
theorem witness_BootEstablishesTheResetState_cells :
    (0x1050 : Word).toNat % 4096 = 0x050 + 0 ∧ (0x109F : Word).toNat % 4096 = 0x050 + 79 ∧
    (0x1201 : Word).toNat % 4096 = 0x200 + 1 ∧ 63 < State.reset.config.W ∧ 31 < State.reset.config.H := by decide
theorem witness_BootRefusesAnOversizedRom : tooLong.length > 3584 := tooLong_length
/-- A list with a refused `boot` in it, then a `boot` that fits, on the machine of State.reset. -/
theorem witness_NoStepUntilABootSucceeds :
    (∀ rom : List Byte, HostAction.boot rom ∈ [.step, .boot tooLong, .setKeys 0xFFFF] → rom.length > 3584) ∧
    ([0x12, 0x00] : List Byte).length ≤ 3584 ∧ State.reset.config = defaultConfig ∧ State.reset.draws = 0 := by
  refine ⟨fun rom h => ?_, by decide, rfl, rfl⟩
  obtain rfl : rom = tooLong := by simpa using h
  exact tooLong_length
theorem witness_ResetIsBootOfAnEmptyRom : (faultedState defaultConfig).config = defaultConfig ∧ (faultedState defaultConfig).draws = 0 := by
  decide
theorem witness_TickDecrementsTheDelayTimer :
    (State.resetWith external 0).config.timerMode = .externalTick ∧ (State.resetWith external 0).fault = none ∧
    State.reset.config.timerMode = .coupled := by decide
theorem witness_CoupledStepDecrementsTheDelayTimer :
    steps ((prog 0xF115).setReg 1 1) (.ldDT 1) (fun t => t.fault.isNone) = true ∧
    steps { prog 0x6A05 with DT := 1 } (.ldImm 0xA 0x05) (fun t => t.fault.isNone) = true ∧
    State.reset.config.timerMode = .coupled := by decide
theorem witness_ExternalTickStepKeepsTheDelayTimer :
    steps { (prog 0xF115).setReg 1 1 with config := external } (.ldDT 1) (fun t => t.fault.isNone) = true ∧
    steps { prog 0x6A05 with config := external, DT := 1 } (.ldImm 0xA 0x05) (fun t => t.fault.isNone) = true ∧
    external.timerMode = .externalTick := by decide

theorem witness_StepWritesOnlyTheNamedRegisters :
    steps (prog12 0x8124 1 2) (.addReg 1 2) (fun t => t.reg 2 == 2) = true ∧ writesReg (.addReg 1 2) 2 = false ∧
    after (prog 0x0123) (·.reg 0) = some 0 ∧ decode (prog 0x0123).fetchWord = .unknown .sysWord := by decide
theorem witness_OnlyThreeInstructionsWriteI :
    steps (prog 0xA123) (.ldI 0x123) (fun t => t.I != (prog 0xA123).I) = true ∧
    steps ((prog 0xF11E).setReg 1 1) (.addI 1) (fun t => t.I != (prog 0xF11E).I) = true ∧
    steps (prog 0xF129) (.ldF 1) (fun t => t.I != (prog 0xF129).I) = true := by decide
theorem witness_OnlyCallAndReturnMoveTheStack :
    steps (prog 0x2300) (.call 0x300) (fun t => t.SP != 0 && t.stack[0] != 0) = true ∧
    steps (withSP (prog 0x00EE) 16) .ret (fun t => t.SP != 16) = true := by decide
theorem witness_OnlyClearAndDrawWriteTheScreen :
    steps (withVideo (prog 0x00E0) [0]) .cls (fun t => t.video != [0]) = true ∧
    steps { prog 0xD121 with I := 0x050 } (.drw 1 2 1) (fun t => t.video != []) = true := by decide
theorem witness_OnlyBcdAndBlockStoreWriteMemory :
    steps { (prog 0xF133).setReg 1 9 with I := 0x0FFE } (.ldB 1) (fun t => t.memRead 0x000 != (prog 0xF133).memRead 0x000) = true ∧
    steps { (prog 0xF155).setReg 1 9 with I := 0x0FFF } (.storeRegs 1)
      (fun t => t.memRead 0x000 != (prog 0xF155).memRead 0x000) = true := by decide

theorem witness_CallPushesAndJumps : (withSP State.reset 15).SP.val < 16 ∧ State.reset.SP.val < 16 ∧
    (withSP State.reset 16).SP.val = 16 := by decide
theorem witness_ReturnPops : (withSP State.reset 16).SP.val = 15 + 1 ∧ (withSP State.reset 1).SP.val = 0 + 1 ∧
    State.reset.SP.val = 0 := by decide
theorem witness_AddWithCarry : (1 : Nibble) ≠ 0xF := by decide
/-- Neither operand is VF, the second is, the first is, both are. -/
theorem witness_SubtractWithNotBorrow :
    [((1 : Nibble), (0xE : Nibble)), (1, 0xF), (0xF, 1), (0xF, 0xF)].map (fun p => (decide (p.1 = 0xF), decide (p.2 = 0xF))) =
      [(false, false), (false, true), (true, false), (true, true)] := by decide
theorem witness_ReverseSubtractWithNotBorrow :
    [((0xE : Nibble), (0 : Nibble)), (0, 0xF), (0xF, 0), (0xF, 0xF)].map (fun p => (decide (p.1 = 0xF), decide (p.2 = 0xF))) =
      [(false, false), (false, true), (true, false), (true, true)] := by decide
theorem witness_ShiftsByOne : (0xE : Nibble) ≠ 0xF ∧ (0xF : Nibble) = 0xF := by decide
theorem witness_LoadFontAddress : ((State.reset.setReg 1 15).reg 1).toNat ≤ 15 ∧ ((State.reset.setReg 1 16).reg 1).toNat > 15 := by decide
theorem witness_SkipsOnKey : ((State.reset.setReg 0xF 15).reg 0xF).toNat ≤ 15 ∧ ((State.reset.setReg 0xF 255).reg 0xF).toNat > 15 := by
  decide
/-- At the top of memory: each digit's address, and one outside. -/
theorem witness_BcdStoresThreeDigits :
    portAddr 0x1FFF = portAddr (State.indexed { State.reset with I := 0x0FFF } 0) ∧
    portAddr 0x1000 = portAddr (State.indexed { State.reset with I := 0x0FFF } 1) ∧
    portAddr 0x0001 = portAddr (State.indexed { State.reset with I := 0x0FFF } 2) ∧
    ∀ k, k < 3 → portAddr 0x0002 ≠ portAddr (State.indexed { State.reset with I := 0x0FFF } k) := by decide
theorem witness_BlockStore :
    (0xF : Nibble).toNat ≤ (0xF : Nibble).toNat ∧
    portAddr 0x000E = portAddr (State.indexed { State.reset with I := 0x0FFF } (0xF : Nibble).toNat) ∧
    ∀ k, k ≤ (0xF : Nibble).toNat → portAddr 0x000F ≠ portAddr (State.indexed { State.reset with I := 0x0FFF } k) := by decide
theorem witness_BlockLoad : (0x0 : Nibble).toNat ≤ (0x0 : Nibble).toNat ∧ (0xF : Nibble).toNat ≤ (0xF : Nibble).toNat := by decide
theorem witness_ClearScreen : 63 < State.reset.config.W ∧ 31 < State.reset.config.H := by decide

/-- A row of one set bit at 0x300, to be drawn at column 63 and row 31. -/
def cornerSprite : State := { (prog12 0xD121 0x3F 0x1F).memWrite 0x300 0x80 with I := 0x300 }

theorem witness_DrawFlipsTheCoveredCells_collides : Collides (withVideo cornerSprite [2047]) 1 2 1 :=
  ⟨63, 31, by decide, by decide, by decide, by decide⟩
theorem witness_DrawFlipsTheCoveredCells_misses : ¬ Collides cornerSprite 1 2 1 := by
  rintro ⟨px, py, _, _, _, h⟩
  exact absurd (show decide (cellIndex 64 px py ∈ ([] : List Nat)) = true from h) (by simp)
/-- The same draw twice, with two instructions between that change neither the sprite nor the coordinates. -/
theorem witness_DrawTwiceRestoresTheScreen :
    completes (.drw 1 2 1) cornerSprite (fun t =>
      let t' := (t.setReg 15 7).setPc 0x300
      decide (t'.config = t.config ∧ t'.video = t.video ∧ t'.I = t.I ∧ t'.mem = t.mem ∧ t'.reg 1 = cornerSprite.reg 1 ∧
        t'.reg 2 = cornerSprite.reg 2) && completes (.drw 1 2 1) t' (fun u => u.reg 15 == 1)) = true := by decide
theorem witness_VideoPortShowsTheCells : 63 < State.reset.config.W ∧ 31 < State.reset.config.H := by decide

theorem witness_LoadFromDelayTimer : Fetches { prog 0xF107 with DT := 4 } (.ldFromDT 1) ∧
    (prog 0xF107).config.timerMode = .coupled := ⟨⟨rfl, by decide⟩, rfl⟩
theorem witness_KeyWaitTakesTheLowestKey :
    (withKeys State.reset 0x8000).key 15 = true ∧ (∀ j, j < 15 → (withKeys State.reset 0x8000).key j = false) ∧
    (withKeys State.reset 0xFFFF).key 0 = true := by decide
theorem witness_KeyWaitTakesTheLowestKey_none : (∀ k, k < 16 → (prog 0xF30A).key k = false) ∧ Fetches (prog 0xF30A) (.ldKey 3) :=
  ⟨by decide, rfl, by decide⟩
theorem witness_SetSoundTimerDoesNothing : Fetches (prog 0xF318) (.ldST 3) := ⟨rfl, by decide⟩

theorem witness_SelfJumpIdles_enters : (prog 0x1200).fault = none ∧ (prog 0x1200).pc.toNat = (0x200 : Addr).toNat ∧
    (prog 0x1200).fetchWord = 0x1#4 ++ 0x200#12 := by decide
theorem witness_SelfJumpIdles_still : State.idleAt { prog 0x1200 with opcode := 0x1200 } 0x200 ∧ (prog 0x1200).unknown = none ∧
    (prog 0x1200).DT = 0 := by unfold State.idleAt; decide
theorem witness_SelfJumpIdles_external :
    State.idleAt { prog 0x1200 with opcode := 0x1200, config := external, DT := 3 } 0x200 ∧ external.timerMode = .externalTick := by
  unfold State.idleAt; decide
theorem witness_SelfJumpIdles_counts : State.idleAt { prog 0x1200 with opcode := 0x1200, DT := 3 } 0x200 ∧
    (prog 0x1200).config.timerMode = .coupled ∧ (3 : Byte) ≠ 0 := by unfold State.idleAt; decide

end Sys2Proof.Tests
end

/-! ### The keypad and the configuration across the shared operations

The operations whose result is a record update or a loop: what they leave of the two components that no instruction writes
(10_state.md R30; 00_scope.md R6). -/

namespace Sys2Proof.Machine

section KeypadAndConfiguration

variable (s : State)

@[simp] theorem State.skipIf_keys (c : Bool) : (s.skipIf c).keys = s.keys := by rw [State.skipIf_eq, State.setPc_keys]
@[simp] theorem State.skipIf_config (c : Bool) : (s.skipIf c).config = s.config := by
  rw [State.skipIf_eq, State.setPc_config]

@[simp] theorem State.callTo_keys (a : Word) : (s.callTo a).keys = s.keys := by unfold State.callTo; split <;> rfl
@[simp] theorem State.callTo_config (a : Word) : (s.callTo a).config = s.config := by unfold State.callTo; split <;> rfl

@[simp] theorem State.returnFromCall_keys : s.returnFromCall.keys = s.keys := by
  unfold State.returnFromCall; split <;> rfl
@[simp] theorem State.returnFromCall_config : s.returnFromCall.config = s.config := by
  unfold State.returnFromCall; split <;> rfl

@[simp] theorem State.storeBcd_keys (v : Byte) : (s.storeBcd v).keys = s.keys := rfl
@[simp] theorem State.storeBcd_config (v : Byte) : (s.storeBcd v).config = s.config := rfl

@[simp] theorem State.storeBlock_keys (n : Nat) : (s.storeBlock n).keys = s.keys := by rw [State.storeBlock_eq]
@[simp] theorem State.storeBlock_config (n : Nat) : (s.storeBlock n).config = s.config := by rw [State.storeBlock_eq]

@[simp] theorem State.loadBlock_keys (n : Nat) : (s.loadBlock n).keys = s.keys := by rw [State.loadBlock_eq]
@[simp] theorem State.loadBlock_config (n : Nat) : (s.loadBlock n).config = s.config := by rw [State.loadBlock_eq]

@[simp] theorem State.drawRows_keys (ox oy n : Nat) : (s.drawRows ox oy n).keys = s.keys := by rw [State.drawRows_eq]
@[simp] theorem State.drawRows_config (ox oy n : Nat) : (s.drawRows ox oy n).config = s.config := by
  rw [State.drawRows_eq]

@[simp] theorem State.storeRandom_keys (x : Nibble) (kk r : Byte) : (s.storeRandom x kk r).keys = s.keys := rfl
@[simp] theorem State.storeRandom_config (x : Nibble) (kk r : Byte) : (s.storeRandom x kk r).config = s.config := rfl

@[simp] theorem State.timerPhase_keys : s.timerPhase.keys = s.keys := by rw [State.timerPhase_eq, State.setDT_keys]
@[simp] theorem State.timerPhase_config : s.timerPhase.config = s.config := by
  rw [State.timerPhase_eq, State.setDT_config]

@[simp] theorem State.retire_keys (w : Word) : (s.retire w).keys = s.keys := by unfold State.retire; split <;> simp
@[simp] theorem State.retire_config (w : Word) : (s.retire w).config = s.config := by
  unfold State.retire; split <;> simp

end KeypadAndConfiguration

/-! ### What a step can do -/

theorem finish_eq_next {w : Word} {r : Result} {t : State} (h : finish w r = .next t) :
    ∃ u, r = .next u ∧ t = u.retire w := by
  cases r with
  | next u => exact ⟨u, rfl, (Host.Outcome.next.inj h).symm⟩
  | fault f => cases h
  | refused f => cases h

/-- The three ways a step reaches a next state: a faulted core stays as it is, a decoded instruction runs and the step ends on
the state it left, an unknown word is reported (30_encoding.md R90). -/
theorem step_cases {s t : State} (h : step s = .next t) :
    (s.fault ≠ none ∧ t = s) ∨
    (s.fault = none ∧ ∃ i u, decode s.fetchWord = .instr i ∧ exec i s.advance = .next u ∧ t = u.retire s.fetchWord) ∨
    (s.fault = none ∧ (∃ why, decode s.fetchWord = .unknown why) ∧
      t = (s.advance.reportUnknown s.fetchWord s.pc).retire s.fetchWord) := by
  by_cases hf : s.fault = none
  · cases hd : decode s.fetchWord with
    | instr i =>
      rw [step_of_instr s hf hd] at h
      obtain ⟨u, hu, ht⟩ := finish_eq_next h
      exact .inr (.inl ⟨hf, i, u, rfl, hu, ht⟩)
    | unknown why =>
      rw [step_of_unknown s hf hd] at h
      exact .inr (.inr ⟨hf, ⟨why, rfl⟩, (Host.Outcome.next.inj h).symm⟩)
  · rw [step_of_fault s hf] at h
    exact .inl ⟨hf, (Host.Outcome.next.inj h).symm⟩

/-! ### No instruction writes the keypad or the configuration -/

/-- R30: "No instruction writes it", for the keypad; R6, for the model arguments. A fault keeps both too. -/
theorem exec_keeps_keys_and_config {i : Instr} {s t : State} (h : exec i s = .next t) :
    t.keys = s.keys ∧ t.config = s.config := by
  cases i with
  | skp x | sknp x | ldF x | ldKey x =>
    -- two outcomes each: a digit out of range faults, a wait without a key goes back to its own address
    simp only [exec, execSkp, execSknp, execLdF, execLdKey] at h
    split at h <;> obtain rfl := Host.Outcome.next.inj h <;> simp
  | _ =>
    -- one outcome, by definition: the answer is an operation of the layer above on `s`
    obtain rfl := Host.Outcome.next.inj h
    simp

/-- Settles O28: a step leaves the state alone, or runs an instruction or a report and then the end of the step, and each of
these keeps the keypad and the configuration. -/
theorem stepKeepsKeypadAndConfiguration : Obligations.StepKeepsKeypadAndConfiguration := by
  intro s t h
  obtain ⟨-, rfl⟩ | ⟨-, i, u, -, hu, rfl⟩ | ⟨-, -, rfl⟩ := step_cases h
  · exact ⟨rfl, rfl⟩
  · obtain ⟨hkeys, hconfig⟩ := exec_keeps_keys_and_config hu
    exact ⟨by simp [hkeys], by simp [hconfig]⟩
  · exact ⟨by simp, by simp⟩

end Sys2Proof.Machine

/-! ### Fetch -/

namespace Sys2Proof.Machine

/-- A word put together from two bytes, as a number: the high byte weighs 256 (20_memory.md R63). -/
theorem toNat_wordOfBytes (hi lo : Byte) : (wordOfBytes hi lo).toNat = hi.toNat * 256 + lo.toNat := by
  unfold wordOfBytes
  rw [BitVec.toNat_append, ← Nat.shiftLeft_add_eq_or_of_lt lo.isLt, Nat.shiftLeft_eq]

/-- The byte after `a` lies at the next address, reduced on its own: after 0xFFF comes 0x000 (20_memory.md R63, D2). -/
theorem portAddr_add_one (a : Word) : portAddr (a + 1) = (a.toNat + 1) % memSize := by
  have h : (a + 1).toNat = (a.toNat + 1) % 65536 := BitVec.toNat_add a 1
  rw [portAddr, h]; unfold memSize; omega

/-- Settles O6: fetch puts the word together from the bytes at `pc` and `pc + 1`, each read at its own reduced address. -/
theorem fetchIsBigEndian : Obligations.FetchIsBigEndian := by
  intro s
  simp only [State.fetchWord, State.memRead2, State.memRead, toNat_wordOfBytes, portAddr_add_one]
  rfl

end Sys2Proof.Machine

/-! ### The invariant across a step

What each shared operation and then each instruction does to the components that the invariant speaks of: memory, the video
buffer, the fault latch and the `unknown` port. -/

namespace Sys2Proof.Machine

section SharedOperations

variable (s : State)

@[simp] theorem State.skipIf_mem (c : Bool) : (s.skipIf c).mem = s.mem := by rw [State.skipIf_eq, State.setPc_mem]
@[simp] theorem State.skipIf_video (c : Bool) : (s.skipIf c).video = s.video := by rw [State.skipIf_eq, State.setPc_video]
@[simp] theorem State.skipIf_fault (c : Bool) : (s.skipIf c).fault = s.fault := by rw [State.skipIf_eq, State.setPc_fault]
@[simp] theorem State.skipIf_unknown (c : Bool) : (s.skipIf c).unknown = s.unknown := by
  rw [State.skipIf_eq, State.setPc_unknown]

@[simp] theorem State.storeRandom_mem (x : Nibble) (kk r : Byte) : (s.storeRandom x kk r).mem = s.mem := rfl
@[simp] theorem State.storeRandom_video (x : Nibble) (kk r : Byte) : (s.storeRandom x kk r).video = s.video := rfl
@[simp] theorem State.storeRandom_fault (x : Nibble) (kk r : Byte) : (s.storeRandom x kk r).fault = s.fault := rfl
@[simp] theorem State.storeRandom_unknown (x : Nibble) (kk r : Byte) : (s.storeRandom x kk r).unknown = s.unknown := rfl

@[simp] theorem State.loadBlock_mem (n : Nat) : (s.loadBlock n).mem = s.mem := by rw [State.loadBlock_eq]
@[simp] theorem State.loadBlock_video (n : Nat) : (s.loadBlock n).video = s.video := by rw [State.loadBlock_eq]
@[simp] theorem State.loadBlock_fault (n : Nat) : (s.loadBlock n).fault = s.fault := by rw [State.loadBlock_eq]
@[simp] theorem State.loadBlock_unknown (n : Nat) : (s.loadBlock n).unknown = s.unknown := by rw [State.loadBlock_eq]

@[simp] theorem State.storeBlock_video (n : Nat) : (s.storeBlock n).video = s.video := by rw [State.storeBlock_eq]
@[simp] theorem State.storeBlock_fault (n : Nat) : (s.storeBlock n).fault = s.fault := by rw [State.storeBlock_eq]

@[simp] theorem State.drawRows_mem (ox oy n : Nat) : (s.drawRows ox oy n).mem = s.mem := by rw [State.drawRows_eq]
@[simp] theorem State.drawRows_fault (ox oy n : Nat) : (s.drawRows ox oy n).fault = s.fault := by rw [State.drawRows_eq]

/-- The BCD store keeps memory in canonical form: it is three memory writes. -/
theorem State.mem_wf_storeBcd (h : s.mem.wf s.config.fontset) (v : Byte) : (s.storeBcd v).mem.wf s.config.fontset := by
  have h1 := s.mem_wf_memWrite h (s.indexed 0) (bcdHundreds v)
  have h2 := State.mem_wf_memWrite _ h1 (s.indexed 1) (bcdTens v)
  exact State.mem_wf_memWrite _ h2 (s.indexed 2) (bcdOnes v)

end SharedOperations

variable {s t : State} {i : Instr}

/-- What an instruction can do to memory, the screen, the fault latch and the `unknown` port: leave all four alone, take a
fault, or be one of the two stores (20_memory.md R65), the clear or the draw (10_state.md R31). -/
theorem exec_cases (h : exec i s = .next t) :
    (t.mem = s.mem ∧ t.video = s.video ∧ t.fault = s.fault ∧ t.unknown = s.unknown) ∨
    (∃ c, t = s.raiseFault c) ∨
    (∃ v, t = s.storeBcd v) ∨
    (∃ n, t = s.storeBlock n) ∨
    t = s.clearVideo ∨
    ∃ ox oy n, t = (s.setReg vF noCollisionFlag).drawRows ox oy n := by
  cases i with
  | cls =>
    obtain rfl := Host.Outcome.next.inj h
    exact .inr (.inr (.inr (.inr (.inl rfl))))
  | drw x y n =>
    obtain rfl := Host.Outcome.next.inj h
    exact .inr (.inr (.inr (.inr (.inr ⟨_, _, _, rfl⟩))))
  | ldB x =>
    obtain rfl := Host.Outcome.next.inj h
    exact .inr (.inr (.inl ⟨_, rfl⟩))
  | storeRegs x =>
    obtain rfl := Host.Outcome.next.inj h
    exact .inr (.inr (.inr (.inl ⟨_, rfl⟩)))
  | call nnn =>
    obtain rfl := Host.Outcome.next.inj h
    by_cases hsp : s.SP.val < 16
    · exact .inl (by simp [State.callTo_of_lt _ _ hsp])
    · exact .inr (.inl ⟨_, State.callTo_full _ _ (by omega)⟩)
  | ret =>
    obtain rfl := Host.Outcome.next.inj h
    by_cases hsp : 0 < s.SP.val
    · exact .inl (by simp [State.returnFromCall_of_pos _ hsp])
    · exact .inr (.inl ⟨_, State.returnFromCall_empty _ (by omega)⟩)
  | skp x | sknp x | ldF x =>
    -- a digit in range, or the fault of one that is not
    simp only [exec, execSkp, execSknp, execLdF] at h
    split at h <;> obtain rfl := Host.Outcome.next.inj h
    · exact .inl (by simp)
    · exact .inr (.inl ⟨_, rfl⟩)
  | ldKey x =>
    -- the key is taken, or `pc` goes back to wait for one
    simp only [exec, execLdKey] at h
    split at h <;> obtain rfl := Host.Outcome.next.inj h <;> exact .inl (by simp)
  | _ =>
    -- by definition an operation that writes registers, `I`, `pc`, DT or the draw count
    obtain rfl := Host.Outcome.next.inj h
    exact .inl (by simp)

/-- Without a latched fault the invariant speaks of the configuration, memory and the video buffer alone. -/
theorem State.Inv.of_no_fault (hc : s.config.wf) (hm : s.mem.wf s.config.fontset)
    (hv : s.video.wf (s.config.W * s.config.H)) (hf : s.fault = none) : s.Inv :=
  ⟨hc, hm, hv, by simp [State.faultLatchOk, hf]⟩

/-- A fault taken where no report is shown is latched with the address that `pc` goes back to. -/
theorem State.Inv.raiseFault (hs : s.Inv) (hu : s.unknown = none) (c : FaultCode) : (s.raiseFault c).Inv := by
  obtain ⟨hc, hm, hv, -⟩ := hs
  exact ⟨hc, hm, hv, by simp [State.faultLatchOk, hu]⟩

/-- Every instruction that starts without a fault and without a report keeps the invariant. -/
theorem exec_keeps_inv (h : exec i s = .next t) (hs : s.Inv) (hf : s.fault = none) (hu : s.unknown = none) : t.Inv := by
  have ⟨hc, hm, hv, _⟩ := hs
  obtain ⟨-, hconfig⟩ := exec_keeps_keys_and_config h
  obtain ⟨hmem, hvideo, hfault, -⟩ | ⟨c, rfl⟩ | ⟨v, rfl⟩ | ⟨n, rfl⟩ | rfl | ⟨ox, oy, n, rfl⟩ := exec_cases h
  · exact .of_no_fault (by rwa [hconfig]) (by rwa [hmem, hconfig]) (by rwa [hvideo, hconfig]) (hfault.trans hf)
  · exact hs.raiseFault hu c
  · exact .of_no_fault hc (s.mem_wf_storeBcd hm v) hv hf
  · have hstore := s.mem_wf_storeBlock hm n
    exact .of_no_fault (by simpa using hc) (by simpa using hstore) (by simpa using hv) (by simpa using hf)
  · exact .of_no_fault hc hm ⟨.nil, by simp⟩ hf
  · have hdraw := State.video_wf_drawRows (s.setReg vF noCollisionFlag) hv ox oy n
    exact .of_no_fault (by simpa using hc) (by simpa using hm) (by simpa using hdraw) (by simpa using hf)

/-- The advance of `pc` keeps the invariant on a core without a fault. -/
theorem State.Inv.advance (hs : s.Inv) (hf : s.fault = none) : s.advance.Inv := by
  obtain ⟨hc, hm, hv, -⟩ := hs
  exact .of_no_fault hc hm hv hf

/-- The report of an unknown word keeps the invariant on a core without a fault. -/
theorem State.Inv.reportUnknown (hs : s.Inv) (hf : s.fault = none) (w a : Word) : (s.reportUnknown w a).Inv := by
  obtain ⟨hc, hm, hv, -⟩ := hs
  exact .of_no_fault hc hm hv hf

/-- The end of a step writes the opcode latch and DT alone, of which the invariant does not speak. -/
theorem State.inv_retire (w : Word) : (s.retire w).Inv ↔ s.Inv := by
  unfold State.retire
  split
  · rfl
  · rw [State.timerPhase_eq]; rfl

/-- Settles O13: a faulted core stays as it is; a running one goes through advance, then instruction or report, then the end of
the step, and each of these keeps the invariant. -/
theorem stepKeepsInvariant : Obligations.StepKeepsInvariant := by
  intro s t hs h
  obtain ⟨-, rfl⟩ | ⟨hf, i, u, -, hu, rfl⟩ | ⟨hf, -, rfl⟩ := step_cases h
  · exact hs
  · exact (State.inv_retire _).2 (exec_keeps_inv hu (hs.advance hf) hf rfl)
  · exact (State.inv_retire _).2 ((hs.advance hf).reportUnknown hf _ _)

end Sys2Proof.Machine

/-! ### The decoder and the encoder -/

namespace Sys2Proof

/-- The decoder finds the fields that the encoder put together (30_encoding.md R81), in the group that the encoder chose. -/
theorem decode_encode (i : Instr) : decode (encode i) = .instr i := by
  cases i with
  | cls | ret => rfl
  | ldReg | orReg | andReg | xorReg | addReg | subReg | shr | subnReg | shl => simp [encode, decode, decodeGroup8]
  | skp | sknp => simp [encode, decode, decodeGroupE]
  | ldFromDT | ldKey | ldDT | ldST | addI | ldF | ldB | storeRegs | loadRegs => simp [encode, decode, decodeGroupF]
  | _ => simp [encode, decode] -- the top digit alone decides

/-- Settles O1: instruction by instruction, along the two dispatch levels. -/
theorem decodeInvertsEncode : Obligations.DecodeInvertsEncode := decode_encode

/-! ### A word is put together from its fields (R81) -/

theorem op_nnn_eq (w : Word) : fieldOp w ++ fieldNNN w = w :=
  (BitVec.extractLsb'_append_extractLsb'_eq_extractLsb' rfl).trans (slice_whole w)

theorem op_x_eq (w : Word) : fieldOp w ++ fieldX w = highByte w :=
  BitVec.extractLsb'_append_extractLsb'_eq_extractLsb' rfl

theorem op_x_kk_eq (w : Word) : fieldOp w ++ fieldX w ++ fieldKK w = w := by
  rw [op_x_eq]
  exact (BitVec.extractLsb'_append_extractLsb'_eq_extractLsb' rfl).trans (slice_whole w)

theorem op_x_y_n_eq (w : Word) : fieldOp w ++ fieldX w ++ fieldY w ++ fieldN w = w := by
  have h : fieldOp w ++ fieldX w ++ fieldY w = w.extractLsb' 4 12 := by
    rw [op_x_eq]; exact BitVec.extractLsb'_append_extractLsb'_eq_extractLsb' rfl
  rw [h]
  exact (BitVec.extractLsb'_append_extractLsb'_eq_extractLsb' rfl).trans (slice_whole w)

/-- Words are equal exactly when their four digits are. -/
theorem digits_inj {a x y n a' x' y' n' : Nibble} :
    (a ++ x ++ y ++ n : Word) = a' ++ x' ++ y' ++ n' ↔ a = a' ∧ x = x' ∧ y = y' ∧ n = n' := by
  constructor
  · intro h
    exact ⟨by simpa using congrArg fieldOp h, by simpa using congrArg fieldX h, by simpa using congrArg fieldY h,
      by simpa using congrArg fieldN h⟩
  · rintro ⟨rfl, rfl, rfl, rfl⟩; rfl

/-! The three masks of R85: nothing is a don't-care, the digit `n` is, or the digit `y` is. -/

theorem and_FFFF (w : Word) : w &&& 0xFFFF = w := BitVec.and_allOnes

theorem and_FFF0 (w : Word) : w &&& 0xFFF0 = fieldOp w ++ fieldX w ++ fieldY w ++ 0x0#4 := by
  have h : (fieldOp w ++ fieldX w ++ fieldY w ++ fieldN w) &&& (0xFFF#12 ++ 0x0#4) =
      ((fieldOp w ++ fieldX w ++ fieldY w) &&& BitVec.allOnes 12) ++ (fieldN w &&& 0x0#4) := BitVec.and_append
  rwa [BitVec.and_zero, BitVec.and_allOnes, op_x_y_n_eq] at h

theorem and_FF0F (w : Word) : w &&& 0xFF0F = fieldOp w ++ fieldX w ++ 0x0#4 ++ fieldN w := by
  have high : (fieldOp w ++ fieldX w ++ fieldY w) &&& (0xFF#8 ++ 0x0#4) =
      ((fieldOp w ++ fieldX w) &&& BitVec.allOnes 8) ++ (fieldY w &&& 0x0#4) := BitVec.and_append
  have h : (fieldOp w ++ fieldX w ++ fieldY w ++ fieldN w) &&& (0xFF#8 ++ 0x0#4 ++ 0xF#4) =
      ((fieldOp w ++ fieldX w ++ fieldY w) &&& (0xFF#8 ++ 0x0#4)) ++ (fieldN w &&& BitVec.allOnes 4) :=
    BitVec.and_append
  rwa [high, BitVec.and_zero, BitVec.and_allOnes, BitVec.and_allOnes, op_x_y_n_eq] at h

/-! ### The words that decode to an instruction

A word decodes to `i` exactly when its bits that are not don't-cares are those of `encode i`. -/

section DecodesTo

variable {w : Word} {i : Instr}

theorem eq_ofNat_of_toNat_eq {n k : Nat} {b : BitVec n} (h : b.toNat = k) : b = BitVec.ofNat n k := by
  rw [← h, BitVec.ofNat_toNat, BitVec.setWidth_eq]

theorem word_eq_nnn {a : Nibble} (ha : fieldOp w = a) : w = a ++ fieldNNN w := by rw [← ha, op_nnn_eq]

theorem word_eq_kk {a : Nibble} {k : Byte} (ha : fieldOp w = a) (hk : fieldKK w = k) : w = a ++ fieldX w ++ k := by
  rw [← ha, ← hk, op_x_kk_eq]

theorem word_eq_n {a n : Nibble} (ha : fieldOp w = a) (hn : fieldN w = n) : w = a ++ fieldX w ++ fieldY w ++ n := by
  rw [← ha, ← hn, op_x_y_n_eq]

theorem and_careMask_of_decodeGroup0 (hop : fieldOp w = 0x0) (h : decodeGroup0 w = .instr i) :
    w &&& i.careMask = encode i := by
  have hw := word_eq_nnn hop
  unfold decodeGroup0 at h
  split at h <;> cases h
  case h_1 hnnn | h_2 hnnn => rw [hw, eq_ofNat_of_toNat_eq hnnn]; rfl

theorem and_careMask_of_decodeGroup8 (hop : fieldOp w = 0x8) (h : decodeGroup8 w = .instr i) :
    w &&& i.careMask = encode i := by
  unfold decodeGroup8 at h
  split at h <;> cases h
  case h_7 hn | h_9 hn => rw [Instr.careMask, and_FF0F, hop, eq_ofNat_of_toNat_eq hn]; rfl
  all_goals exact (and_FFFF w).trans (word_eq_n hop (eq_ofNat_of_toNat_eq ‹_›))

theorem and_careMask_of_decodeGroupE (hop : fieldOp w = 0xE) (h : decodeGroupE w = .instr i) :
    w &&& i.careMask = encode i := by
  unfold decodeGroupE at h
  split at h <;> cases h
  all_goals exact (and_FFFF w).trans (word_eq_kk hop (eq_ofNat_of_toNat_eq ‹_›))

theorem and_careMask_of_decodeGroupF (hop : fieldOp w = 0xF) (h : decodeGroupF w = .instr i) :
    w &&& i.careMask = encode i := by
  unfold decodeGroupF at h
  split at h <;> cases h
  all_goals exact (and_FFFF w).trans (word_eq_kk hop (eq_ofNat_of_toNat_eq ‹_›))

/-- The first dispatch level (R83, R89): four groups go on to a secondary field, and each of the other twelve top digits is
one instruction, whose operands and top digit are the whole word but for a don't-care digit. -/
theorem decode_cases (w : Word) :
    (fieldOp w = 0x0 ∧ decode w = decodeGroup0 w) ∨ (fieldOp w = 0x8 ∧ decode w = decodeGroup8 w) ∨
    (fieldOp w = 0xE ∧ decode w = decodeGroupE w) ∨ (fieldOp w = 0xF ∧ decode w = decodeGroupF w) ∨
    ((fieldOp w).toNat ∉ [0x0, 0x8, 0xE, 0xF] ∧ ∃ i, decode w = .instr i ∧ w &&& i.careMask = encode i) := by
  unfold decode
  split
  case h_1 hop => exact .inl ⟨eq_ofNat_of_toNat_eq hop, rfl⟩
  case h_9 hop => exact .inr (.inl ⟨eq_ofNat_of_toNat_eq hop, rfl⟩)
  case h_15 hop => exact .inr (.inr (.inl ⟨eq_ofNat_of_toNat_eq hop, rfl⟩))
  case h_16 =>
    have hop : (fieldOp w).toNat = 0xF := by have := (fieldOp w).isLt; simp only [imp_false] at *; omega
    exact .inr (.inr (.inr (.inl ⟨eq_ofNat_of_toNat_eq hop, rfl⟩)))
  all_goals refine .inr (.inr (.inr (.inr ⟨by simp [*], _, rfl, ?_⟩)))
  case h_2 hop | h_3 hop | h_11 hop | h_12 hop => -- op | nnn
    exact (and_FFFF w).trans (word_eq_nnn (eq_ofNat_of_toNat_eq hop))
  case h_4 hop | h_5 hop | h_7 hop | h_8 hop | h_13 hop => -- op | x | kk
    exact (and_FFFF w).trans (word_eq_kk (eq_ofNat_of_toNat_eq hop) rfl)
  case h_14 hop => -- op | x | y | n
    exact (and_FFFF w).trans (word_eq_n (eq_ofNat_of_toNat_eq hop) rfl)
  case h_6 hop | h_10 hop => -- op | x | y | don't-care
    rw [Instr.careMask, and_FFF0, eq_ofNat_of_toNat_eq hop]; rfl

theorem and_careMask_of_decode (h : decode w = .instr i) : w &&& i.careMask = encode i := by
  obtain ⟨hop, hd⟩ | ⟨hop, hd⟩ | ⟨hop, hd⟩ | ⟨hop, hd⟩ | ⟨-, j, hd, hj⟩ := decode_cases w <;> rw [hd] at h
  · exact and_careMask_of_decodeGroup0 hop h
  · exact and_careMask_of_decodeGroup8 hop h
  · exact and_careMask_of_decodeGroupE hop h
  · exact and_careMask_of_decodeGroupF hop h
  · rwa [← Decoded.instr.inj h]

theorem decode_of_and_careMask (h : w &&& i.careMask = encode i) : decode w = .instr i := by
  cases i with
  | seReg x y | sneReg x y =>
    obtain ⟨hop, rfl, rfl, -⟩ := digits_inj.1 ((and_FFF0 w).symm.trans h)
    simp [decode, hop]
  | shr x | shl x =>
    obtain ⟨hop, rfl, -, hn⟩ := digits_inj.1 ((and_FF0F w).symm.trans h)
    simp [decode, decodeGroup8, hop, hn]
  | _ =>
    -- no digit is a don't-care, so the word is the encoder's
    rw [(and_FFFF w).symm.trans h, decode_encode]

theorem decode_eq_instr_iff : decode w = .instr i ↔ w &&& i.careMask = encode i :=
  ⟨and_careMask_of_decode, decode_of_and_careMask⟩

end DecodesTo

/-- Settles O2: both words decode to `i` exactly when their bits that are not don't-cares are those of `encode i`. -/
theorem dontCareDigitsAreIgnored : Obligations.DontCareDigitsAreIgnored := by
  intro w w' i h
  rw [decode_eq_instr_iff, decode_eq_instr_iff.1 h, eq_comm]

/-! ### The unknown words (R86) -/

section UnknownWords

variable {w : Word}

theorem decodeGroup0_unknown_iff :
    (∃ why, decodeGroup0 w = .unknown why) ↔ (fieldNNN w).toNat ∉ [0x0E0, 0x0EE] := by
  unfold decodeGroup0; split <;> simp_all

theorem decodeGroup8_unknown_iff :
    (∃ why, decodeGroup8 w = .unknown why) ↔ (fieldN w).toNat ∈ [0x8, 0x9, 0xA, 0xB, 0xC, 0xD, 0xF] := by
  have := (fieldN w).isLt
  unfold decodeGroup8; split <;> simp_all; omega

theorem decodeGroupE_unknown_iff :
    (∃ why, decodeGroupE w = .unknown why) ↔ (fieldKK w).toNat ∉ [0x9E, 0xA1] := by
  unfold decodeGroupE; split <;> simp_all

theorem decodeGroupF_unknown_iff :
    (∃ why, decodeGroupF w = .unknown why) ↔
      (fieldKK w).toNat ∉ [0x07, 0x0A, 0x15, 0x18, 0x1E, 0x29, 0x33, 0x55, 0x65] := by
  unfold decodeGroupF; split <;> simp_all

/-- The unknown words by their fields: a group with a secondary field, at a value that selects nothing. -/
theorem decode_unknown_iff : (∃ why, decode w = .unknown why) ↔
    ((fieldOp w).toNat = 0x0 ∧ (fieldNNN w).toNat ∉ [0x0E0, 0x0EE]) ∨
    ((fieldOp w).toNat = 0x8 ∧ (fieldN w).toNat ∈ [0x8, 0x9, 0xA, 0xB, 0xC, 0xD, 0xF]) ∨
    ((fieldOp w).toNat = 0xE ∧ (fieldKK w).toNat ∉ [0x9E, 0xA1]) ∨
    ((fieldOp w).toNat = 0xF ∧ (fieldKK w).toNat ∉ [0x07, 0x0A, 0x15, 0x18, 0x1E, 0x29, 0x33, 0x55, 0x65]) := by
  obtain ⟨hop, hd⟩ | ⟨hop, hd⟩ | ⟨hop, hd⟩ | ⟨hop, hd⟩ | ⟨hop, i, hd, -⟩ := decode_cases w <;> rw [hd]
  · simp [hop, decodeGroup0_unknown_iff]
  · simp [hop, decodeGroup8_unknown_iff]
  · simp [hop, decodeGroupE_unknown_iff]
  · simp [hop, decodeGroupF_unknown_iff]
  · simp_all

/-! The fields as numbers. -/

theorem toNat_fieldOp (w : Word) : (fieldOp w).toNat = w.toNat / 0x1000 := by
  have := w.isLt
  rw [fieldOp, BitVec.extractLsb'_toNat, Nat.shiftRight_eq_div_pow]; omega

theorem toNat_fieldNNN (w : Word) : (fieldNNN w).toNat = w.toNat % 0x1000 := BitVec.extractLsb'_toNat 0 12 w
theorem toNat_fieldKK (w : Word) : (fieldKK w).toNat = w.toNat % 0x100 := BitVec.extractLsb'_toNat 0 8 w
theorem toNat_fieldN (w : Word) : (fieldN w).toNat = w.toNat % 0x10 := BitVec.extractLsb'_toNat 0 4 w

end UnknownWords

/-- Settles O4: the unknown words by their fields, with the fields written as quotients and remainders. -/
theorem unknownWordsAreExactly : Obligations.UnknownWordsAreExactly := by
  intro w
  have group0 : (w.toNat / 0x1000 = 0x0 ∧ w.toNat % 0x1000 ∉ [0x0E0, 0x0EE]) ↔
      (w.toNat < 0x1000 ∧ w.toNat ≠ 0x00E0 ∧ w.toNat ≠ 0x00EE) := by
    simp only [List.mem_cons, List.not_mem_nil, or_false, not_or]
    omega
  rw [decode_unknown_iff, toNat_fieldOp, toNat_fieldNNN, toNat_fieldKK, toNat_fieldN, group0]

/-! ### The decoder and the opcode map (R84) -/

theorem encode_and_row_mask (i : Instr) : encode i &&& i.row.mask = i.row.pattern := by
  cases i with
  | cls | ret => rfl
  | jp | call | ldI | jpV0 => exact Laws.mask_nnn _ _
  | seImm | sneImm | ldImm | addImm | rnd => exact Laws.mask_op_kk _ _ _
  | seReg | sneReg | drw => exact Laws.mask_op_xyn _ _ _ _
  | ldReg | orReg | andReg | xorReg | addReg | subReg | shr | subnReg | shl => exact Laws.mask_op_n _ _ _ _
  | _ => exact Laws.mask_op_kk_low _ _ _ -- the groups 0xE and 0xF

/-- No row compares a don't-care bit of its instruction (R85). -/
theorem careMask_and_row_mask (i : Instr) : i.careMask &&& i.row.mask = i.row.mask := by
  cases i <;> simp only [Instr.careMask, Instr.row] <;> decide

/-- "Each word selects at most one row" (R84): two rows differ at a bit that both compare. -/
theorem opcodeMap_disjoint :
    opcodeMap.Pairwise fun r r' => r.pattern &&& r'.mask ≠ r'.pattern &&& r.mask := by decide

/-- The rows of a group with a secondary field compare the whole of it, at a value that the decoder knows (R83, R84). -/
theorem row_compares_secondary_field : ∀ r ∈ opcodeMap, fieldOp r.mask = 0xF ∧
    (fieldOp r.pattern = 0x0 → fieldNNN r.mask = 0xFFF ∧ (fieldNNN r.pattern).toNat ∈ [0x0E0, 0x0EE]) ∧
    (fieldOp r.pattern = 0x8 → fieldN r.mask = 0xF ∧
      (fieldN r.pattern).toNat ∉ [0x8, 0x9, 0xA, 0xB, 0xC, 0xD, 0xF]) ∧
    (fieldOp r.pattern = 0xE → fieldKK r.mask = 0xFF ∧ (fieldKK r.pattern).toNat ∈ [0x9E, 0xA1]) ∧
    (fieldOp r.pattern = 0xF → fieldKK r.mask = 0xFF ∧
      (fieldKK r.pattern).toNat ∈ [0x07, 0x0A, 0x15, 0x18, 0x1E, 0x29, 0x33, 0x55, 0x65]) := by decide

section Rows

variable {w : Word}

theorem decoded_row_selects {i : Instr} (h : decode w = .instr i) : w &&& i.row.mask = i.row.pattern := by
  rw [← careMask_and_row_mask, ← BitVec.and_assoc, and_careMask_of_decode h, encode_and_row_mask]

theorem selected_row_unique {r r' : OpcodeRow} (hr : r ∈ opcodeMap) (hr' : r' ∈ opcodeMap)
    (h : w &&& r.mask = r.pattern) (h' : w &&& r'.mask = r'.pattern) : r = r' := by
  have : Std.Symm fun r r' : OpcodeRow => r.pattern &&& r'.mask ≠ r'.pattern &&& r.mask := ⟨fun _ _ => Ne.symm⟩
  by_contra hne
  apply opcodeMap_disjoint.forall hr hr' hne
  rw [← h, ← h', BitVec.and_assoc, BitVec.and_assoc, BitVec.and_comm r.mask]

theorem slice_eq_of_masked {m p : Word} {k n : Nat} (h : w &&& m = p) (hm : m.extractLsb' k n = BitVec.allOnes n) :
    w.extractLsb' k n = p.extractLsb' k n := by
  rw [← h, BitVec.extractLsb'_and, hm, BitVec.and_allOnes]

/-- A word that selects a row has the row's top digit and secondary field, so the decoder knows it. -/
theorem not_unknown_of_selects {r : OpcodeRow} (hr : r ∈ opcodeMap) (h : w &&& r.mask = r.pattern) :
    ¬ ∃ why, decode w = .unknown why := by
  obtain ⟨hop, h0, h8, hE, hF⟩ := row_compares_secondary_field r hr
  have hop : fieldOp r.pattern = fieldOp w := (slice_eq_of_masked h hop).symm
  rw [decode_unknown_iff]
  rintro (⟨hw, hs⟩ | ⟨hw, hs⟩ | ⟨hw, hs⟩ | ⟨hw, hs⟩)
  · obtain ⟨hm, hp⟩ := h0 (hop.trans (eq_ofNat_of_toNat_eq hw))
    exact hs (by rwa [fieldNNN, slice_eq_of_masked h hm])
  · obtain ⟨hm, hp⟩ := h8 (hop.trans (eq_ofNat_of_toNat_eq hw))
    exact hp (by rwa [fieldN, slice_eq_of_masked h hm] at hs)
  · obtain ⟨hm, hp⟩ := hE (hop.trans (eq_ofNat_of_toNat_eq hw))
    exact hs (by rwa [fieldKK, slice_eq_of_masked h hm])
  · obtain ⟨hm, hp⟩ := hF (hop.trans (eq_ofNat_of_toNat_eq hw))
    exact hs (by rwa [fieldKK, slice_eq_of_masked h hm])

end Rows

/-- Settles O3: a decoded word selects its instruction's row, no word selects two rows, and a word that selects a row is not
unknown. -/
theorem decoderAgreesWithOpcodeMap : Obligations.DecoderAgreesWithOpcodeMap := by
  refine ⟨rfl, by decide, fun w => ⟨fun i h r hr => ⟨fun hsel => ?_, ?_⟩, ⟨fun hun r hr hsel => ?_, fun hnone => ?_⟩⟩⟩
  · exact selected_row_unique hr (Laws.row_mem_opcodeMap i) hsel (decoded_row_selects h)
  · rintro rfl
    exact decoded_row_selects h
  · exact not_unknown_of_selects hr hsel hun
  · cases h : decode w with
    | instr i => exact absurd (decoded_row_selects h) (hnone _ (Laws.row_mem_opcodeMap i))
    | unknown why => exact ⟨why, rfl⟩

end Sys2Proof

/-! ### The step: it answers, it writes no other register, it is execute with its phases -/

namespace Sys2Proof.Machine

theorem exec_answers (i : Instr) (s : State) : ∃ t, exec i s = .next t := by
  cases i with
  | skp x | sknp x | ldF x | ldKey x =>
    -- two outcomes each, both a next state
    simp only [exec, execSkp, execSknp, execLdF, execLdKey]
    split <;> exact ⟨_, rfl⟩
  | _ => exact ⟨_, rfl⟩

/-- Settles O9: the three ways a step can go all answer, since no instruction stops. -/
theorem everyStepAnswersANextState : Obligations.EveryStepAnswersANextState := by
  refine ⟨exec_answers, fun s => ?_⟩
  by_cases hf : s.fault = none
  · cases hd : decode s.fetchWord with
    | instr i =>
      obtain ⟨u, hu⟩ := exec_answers i s.advance
      exact ⟨u.retire s.fetchWord, by rw [step_of_instr s hf hd, hu, finish]⟩
    | unknown why => exact ⟨_, step_of_unknown s hf hd⟩
  · exact ⟨s, step_of_fault s hf⟩

section Registers

variable (s : State) (r : Nibble)

@[simp] theorem State.reg_skipIf (c : Bool) : (s.skipIf c).reg r = s.reg r := by rw [State.skipIf_eq, State.reg_setPc]

@[simp] theorem State.reg_callTo (a : Word) : (s.callTo a).reg r = s.reg r := by unfold State.callTo; split <;> rfl

@[simp] theorem State.reg_returnFromCall : s.returnFromCall.reg r = s.reg r := by
  unfold State.returnFromCall; split <;> rfl

@[simp] theorem State.reg_storeBcd (v : Byte) : (s.storeBcd v).reg r = s.reg r := rfl

@[simp] theorem State.reg_storeBlock (n : Nat) : (s.storeBlock n).reg r = s.reg r := by rw [State.storeBlock_eq]; rfl

@[simp] theorem State.reg_storeRandom (x : Nibble) (kk b : Byte) :
    (s.storeRandom x kk b).reg r = if r = x then b &&& kk else s.reg r := State.reg_setReg _ _ _ _

@[simp] theorem State.reg_timerPhase : s.timerPhase.reg r = s.reg r := by rw [State.timerPhase_eq, State.reg_setDT]

@[simp] theorem State.reg_retire (w : Word) : (s.retire w).reg r = s.reg r := by unfold State.retire; split <;> simp

end Registers

/-- The register-access table R23, for execute: a register that the instruction's row does not name is unchanged. -/
theorem exec_keeps_unnamed_reg {i : Instr} {s t : State} {r : Nibble} (h : exec i s = .next t)
    (hr : Claims.writesReg i r = false) : t.reg r = s.reg r := by
  cases i with
  | loadRegs x =>
    obtain rfl := Host.Outcome.next.inj h
    have hx : ¬ r.toNat < x.toNat + 1 := by simpa [Claims.writesReg, Nat.lt_succ_iff] using hr
    rw [State.reg_loadBlock _ (by have := x.isLt; omega), if_neg hx]
  | drw x y n =>
    obtain rfl := Host.Outcome.next.inj h
    have hF : r ≠ vF := by simpa [Claims.writesReg, vF] using hr
    simp [State.reg_drawRows, hF]
  | addReg x y | subReg x y | subnReg x y | shr x | shl x =>
    -- VF is written, then Vx
    obtain rfl := Host.Outcome.next.inj h
    have ⟨hF, hx⟩ : r ≠ vF ∧ r ≠ x := by simpa [Claims.writesReg, vF] using hr
    simp [hF, hx]
  | ldImm x _ | addImm x _ | ldReg x _ | orReg x _ | andReg x _ | xorReg x _ | rnd x _ | ldFromDT x =>
    obtain rfl := Host.Outcome.next.inj h
    have hx : r ≠ x := by simpa [Claims.writesReg] using hr
    simp [hx]
  | ldKey x =>
    have hx : r ≠ x := by simpa [Claims.writesReg] using hr
    simp only [exec, execLdKey] at h
    split at h <;> obtain rfl := Host.Outcome.next.inj h <;> simp [hx]
  | skp x | sknp x | ldF x =>
    simp only [exec, execSkp, execSknp, execLdF] at h
    split at h <;> obtain rfl := Host.Outcome.next.inj h <;> simp
  | _ =>
    -- by definition an operation that writes no register
    obtain rfl := Host.Outcome.next.inj h
    simp

/-- Settles O23: of the parts of a step, execute alone writes registers, and it writes those the table names. -/
theorem stepWritesOnlyTheNamedRegisters : Obligations.StepWritesOnlyTheNamedRegisters := by
  intro s t r h
  obtain ⟨-, rfl⟩ | ⟨-, j, u, hd, hu, rfl⟩ | ⟨-, ⟨why', hd⟩, rfl⟩ := step_cases h
  · exact ⟨fun _ _ _ => rfl, fun _ _ => rfl⟩
  · refine ⟨fun i hi hr => ?_, fun why hw => ?_⟩
    · obtain rfl := Decoded.instr.inj (hd.symm.trans hi)
      rw [State.reg_retire, exec_keeps_unnamed_reg hu hr, State.reg_advance]
    · rw [hd] at hw; cases hw
  · refine ⟨fun i hi => ?_, fun why _ => by simp⟩
    rw [hd] at hi; cases hi

/-- The end of a step without a fault, component by component: the opcode latch and DT (30_encoding.md R90). -/
theorem State.retire_eq (s : State) (w : Word) (h : s.fault = none) : s.retire w = { s with
    opcode := w
    DT := if s.config.timerMode = .coupled ∧ s.DT ≠ 0 then s.DT - 1 else s.DT } := by
  rw [State.retire_of_no_fault _ _ h, State.timerPhase_eq]; rfl

/-- Settles O7: the step taken apart, with the end of the step written out by components. -/
theorem stepRunsTheDecodedInstruction : Obligations.StepRunsTheDecodedInstruction := by
  intro s
  refine ⟨step_of_fault s, fun i hf hd => ⟨fun t ht hft => ?_, fun t ht hft => ?_⟩, fun why hf hd => ?_⟩
  · have ht : exec i s.advance = .next t := ht
    rw [step_of_instr s hf hd, ht, finish, State.retire_eq _ _ hft]
  · have ht : exec i s.advance = .next t := ht
    rw [step_of_instr s hf hd, ht, finish, State.retire_of_fault _ _ hft]
  · rw [step_of_unknown s hf hd, State.retire_eq (s.advance.reportUnknown _ _) _ hf]; rfl

end Sys2Proof.Machine

/-! ### Control flow

The stack and its pointer across the shared operations, then what an instruction can do to them. After that, what the
control-flow instructions do to `pc` and leave of the rest (40_control_flow.md). -/

namespace Sys2Proof.Machine

section StackAndPointer

variable (s : State)

@[simp] theorem State.skipIf_SP (c : Bool) : (s.skipIf c).SP = s.SP := by rw [State.skipIf_eq, State.setPc_SP]
@[simp] theorem State.skipIf_stack (c : Bool) : (s.skipIf c).stack = s.stack := by rw [State.skipIf_eq, State.setPc_stack]

@[simp] theorem State.storeRandom_SP (x : Nibble) (kk r : Byte) : (s.storeRandom x kk r).SP = s.SP := rfl
@[simp] theorem State.storeRandom_stack (x : Nibble) (kk r : Byte) : (s.storeRandom x kk r).stack = s.stack := rfl

@[simp] theorem State.storeBcd_SP (v : Byte) : (s.storeBcd v).SP = s.SP := rfl
@[simp] theorem State.storeBcd_stack (v : Byte) : (s.storeBcd v).stack = s.stack := rfl

@[simp] theorem State.storeBlock_SP (n : Nat) : (s.storeBlock n).SP = s.SP := by rw [State.storeBlock_eq]
@[simp] theorem State.storeBlock_stack (n : Nat) : (s.storeBlock n).stack = s.stack := by rw [State.storeBlock_eq]

@[simp] theorem State.loadBlock_SP (n : Nat) : (s.loadBlock n).SP = s.SP := by rw [State.loadBlock_eq]
@[simp] theorem State.loadBlock_stack (n : Nat) : (s.loadBlock n).stack = s.stack := by rw [State.loadBlock_eq]

@[simp] theorem State.drawRows_SP (ox oy n : Nat) : (s.drawRows ox oy n).SP = s.SP := by rw [State.drawRows_eq]
@[simp] theorem State.drawRows_stack (ox oy n : Nat) : (s.drawRows ox oy n).stack = s.stack := by rw [State.drawRows_eq]

@[simp] theorem State.timerPhase_SP : s.timerPhase.SP = s.SP := by rw [State.timerPhase_eq, State.setDT_SP]
@[simp] theorem State.timerPhase_stack : s.timerPhase.stack = s.stack := by rw [State.timerPhase_eq, State.setDT_stack]

@[simp] theorem State.retire_SP (w : Word) : (s.retire w).SP = s.SP := by unfold State.retire; split <;> simp
@[simp] theorem State.retire_stack (w : Word) : (s.retire w).stack = s.stack := by unfold State.retire; split <;> simp

end StackAndPointer

variable {s t : State} {i : Instr}

/-- What an instruction can do to the stack: leave it and its pointer alone, a fault included, or be a CALL that writes the
entry at index SP (40_control_flow.md R113), or be a RET that moves the pointer alone (R111). -/
theorem exec_stack_cases (h : exec i s = .next t) :
    (t.SP = s.SP ∧ t.stack = s.stack) ∨
    (∃ nnn, i = .call nnn ∧ t.SP.val = s.SP.val + 1 ∧
      ∀ (j : Nat) (hj : j < 16), j ≠ s.SP.val → t.stack[j] = s.stack[j]) ∨
    (i = .ret ∧ t.SP.val + 1 = s.SP.val ∧ t.stack = s.stack) := by
  cases i with
  | call nnn =>
    obtain rfl := Host.Outcome.next.inj h
    by_cases hsp : s.SP.val < 16
    · rw [State.callTo_of_lt _ _ hsp]
      exact .inr (.inl ⟨nnn, rfl, rfl, fun j hj hne => Vector.getElem_set_ne hsp hj hne.symm⟩)
    · rw [State.callTo_full _ _ (by omega)]
      exact .inl ⟨rfl, rfl⟩
  | ret =>
    obtain rfl := Host.Outcome.next.inj h
    by_cases hsp : 0 < s.SP.val
    · rw [State.returnFromCall_of_pos _ hsp]
      exact .inr (.inr ⟨rfl, Nat.sub_add_cancel hsp, rfl⟩)
    · rw [State.returnFromCall_empty _ (by omega)]
      exact .inl ⟨rfl, rfl⟩
  | skp x | sknp x | ldF x | ldKey x =>
    -- two outcomes each: a digit out of range faults, a wait without a key goes back to its own address
    simp only [exec, execSkp, execSknp, execLdF, execLdKey] at h
    split at h <;> obtain rfl := Host.Outcome.next.inj h <;> exact .inl (by simp)
  | _ =>
    -- by definition an operation that does not touch the stack
    obtain rfl := Host.Outcome.next.inj h
    exact .inl (by simp)

/-- Settles O25: of the parts of a step, execute alone moves the stack, and in it CALL and RET alone. -/
theorem onlyCallAndReturnMoveTheStack : Obligations.OnlyCallAndReturnMoveTheStack := by
  intro s t h
  obtain ⟨-, rfl⟩ | ⟨-, i, u, hd, hu, rfl⟩ | ⟨-, -, rfl⟩ := step_cases h
  · exact ⟨fun hne => absurd rfl hne, fun _ _ hne => absurd rfl hne⟩
  · simp only [State.retire_SP, State.retire_stack]
    obtain ⟨hSP, hstack⟩ | ⟨nnn, rfl, hSP, hstack⟩ | ⟨rfl, hSP, hstack⟩ := exec_stack_cases hu
    · exact ⟨fun hne => absurd hSP hne, fun j hj hne => absurd (by simp [hstack]) hne⟩
    · exact ⟨fun _ => .inl ⟨⟨nnn, hd⟩, hSP⟩,
        fun j hj hne => ⟨⟨nnn, hd⟩, Decidable.byContradiction fun hj' => hne (hstack j hj hj')⟩⟩
    · exact ⟨fun _ => .inr ⟨hd, hSP⟩, fun j hj hne => absurd (by simp [hstack]) hne⟩
  · exact ⟨fun hne => absurd (by simp) hne, fun j hj hne => absurd (by simp) hne⟩

/-! ### The self-jump (R271, D32) -/

theorem toNat_addrOperand (nnn : Addr) : (addrOperand nnn).toNat = nnn.toNat :=
  BitVec.toNat_setWidth_of_le (by decide)

/-- A jump to its own address takes the advance back, so the step changes only what every step changes: the `unknown` port,
the opcode latch and DT. -/
theorem step_of_selfJump {a : Addr} (hf : s.fault = none) (hpc : s.pc = addrOperand a)
    (hw : s.fetchWord = encode (.jp a)) :
    step s = .next { s with
      unknown := none
      opcode := encode (.jp a)
      DT := if s.config.timerMode = .coupled ∧ s.DT ≠ 0 then s.DT - 1 else s.DT } := by
  have hexec : exec (.jp a) s.advance = .next { s with unknown := none } := by
    rw [show exec (.jp a) s.advance = .next (s.advance.setPc (addrOperand a)) from rfl, ← hpc]; rfl
  rw [step_of_instr s hf (by rw [hw, decode_encode]), hexec, hw, finish,
    State.retire_eq { s with unknown := none } _ hf]

/-- A step of an idle core that shows no report changes DT alone. -/
theorem step_of_idleAt {a : Addr} (h : s.idleAt a) (hu : s.unknown = none) :
    step s = .next (s.setDT (if s.config.timerMode = .coupled ∧ s.DT ≠ 0 then s.DT - 1 else s.DT)) := by
  obtain ⟨hf, hpc, hw, hop⟩ := h
  rw [step_of_selfJump hf hpc hw, ← hop, ← hu]; rfl

/-- Settles O57: the step of a self-jump is known by components, and from an idle core it changes DT alone. -/
theorem selfJumpIdles : Obligations.SelfJumpIdles := by
  intro s a
  refine ⟨fun hf hpc hw => ?_, fun hidle hu => ⟨fun h => ?_, fun hmode hDT => ?_⟩⟩
  · have hpc : s.pc = addrOperand a := BitVec.eq_of_toNat_eq (hpc.trans (toNat_addrOperand a).symm)
    exact ⟨_, step_of_selfJump hf hpc hw, ⟨hf, hpc, hw, rfl⟩, rfl⟩
  · have hstop : ¬ (s.config.timerMode = .coupled ∧ s.DT ≠ 0) := by
      rintro ⟨hmode, hDT⟩
      rcases h with h | h
      · exact hDT h
      · rw [hmode] at h; cases h
    rw [step_of_idleAt hidle hu, if_neg hstop]; rfl
  · rw [step_of_idleAt hidle hu, if_pos ⟨hmode, hDT⟩]; rfl

/-! ### What the control-flow instructions leave unchanged -/

open Sys2Proof.Claims

theorem frame_setPc (s : State) (a : Word) : Frame onlyPc s (s.setPc a) := by simp [Frame, onlyPc, nothing]

theorem frame_stack_and_pc (s : State) (v : Vector Word 16) (p : Fin 17) (a : Word) :
    Frame { nothing with pc := true, stack := true } s { s with stack := v, SP := p, pc := a } :=
  ⟨fun _ _ => rfl, fun _ => rfl, nofun, nofun, fun _ => rfl, fun _ _ => rfl, fun _ => rfl, fun _ => rfl,
    rfl, rfl, rfl, rfl, rfl⟩

/-- Settles O29: the jump is a write of `pc` alone. -/
theorem jumpSetsPc : Obligations.JumpSetsPc := fun nnn s =>
  ⟨decode_encode (.jp nnn), s.setPc (addrOperand nnn), rfl, frame_setPc _ _, toNat_addrOperand nnn⟩

/-- Settles O32: a register and an address sum to less than 2^16, so the sum in `pc` is the sum of the numbers. -/
theorem jumpWithOffsetAddsV0 : Obligations.JumpWithOffsetAddsV0 := by
  intro nnn s
  refine ⟨decode_encode (.jpV0 nnn), s.setPc (byteOperand (s.reg v0) + addrOperand nnn), rfl, frame_setPc _ _, ?_⟩
  have hbyte : (byteOperand (s.reg v0)).toNat = (s.reg 0).toNat := BitVec.toNat_setWidth_of_le (by decide)
  have haddr := toNat_addrOperand nnn
  have hsum : (byteOperand (s.reg v0)).toNat + (addrOperand nnn).toNat < 2 ^ 16 := by
    have := (s.reg 0).isLt; have := nnn.isLt; omega
  exact (BitVec.toNat_add_of_lt hsum).trans (by rw [hbyte, haddr])

/-- An instruction that is a conditional skip completes with `pc` two further, on 16 bits, exactly when its condition holds
(R110). -/
theorem completes_skipIf {c : Bool} {p : Prop} [Decidable p] (h : exec i s = .next (s.skipIf c)) (hc : c = true ↔ p) :
    Completes i s onlyPc fun t => t.pc.toNat = if p then (s.pc.toNat + 2) % 65536 else s.pc.toNat := by
  rw [State.skipIf_eq] at h
  refine ⟨_, h, frame_setPc _ _, ?_⟩
  simp only [State.setPc_pc, hc]
  split
  · exact BitVec.toNat_add s.pc 2
  · rfl

/-- Settles O33: both are conditional skips. -/
theorem skipsOnImmediate : Obligations.SkipsOnImmediate := fun x kk _ =>
  ⟨decode_encode (.seImm x kk), decode_encode (.sneImm x kk), completes_skipIf rfl beq_iff_eq,
    completes_skipIf rfl bne_iff_ne⟩

/-- Settles O34: both are conditional skips, and the decoder does not look at the low digit. -/
theorem skipsOnRegisters : Obligations.SkipsOnRegisters := fun x y n _ =>
  ⟨by simp [decode], by simp [decode], completes_skipIf rfl beq_iff_eq, completes_skipIf rfl bne_iff_ne⟩

/-- Settles O30: with a free entry the call writes the entry at SP, with none it faults. -/
theorem callPushesAndJumps : Obligations.CallPushesAndJumps := by
  intro nnn s
  have hexec : exec (.call nnn) s = .next (s.callTo (addrOperand nnn)) := rfl
  refine ⟨decode_encode (.call nnn), fun hsp => ?_, fun hsp => ?_⟩
  · rw [State.callTo_of_lt _ _ hsp] at hexec
    refine ⟨_, hexec, frame_stack_and_pc _ _ _ _, toNat_addrOperand nnn, rfl, fun j hj => ?_⟩
    simp only [Vector.getElem_set, eq_comm]
  · rw [State.callTo_full _ _ hsp] at hexec
    exact hexec

/-- Settles O31: with an entry on the stack the return moves SP down to it and reads it, with none it faults. -/
theorem returnPops : Obligations.ReturnPops := by
  intro s
  have hexec : exec .ret s = .next s.returnFromCall := rfl
  refine ⟨decode_encode .ret, fun j hj hsp => ?_, fun hsp => ?_⟩
  · rw [State.returnFromCall_of_pos _ (by omega)] at hexec
    refine ⟨_, hexec, frame_stack_and_pc s s.stack _ _, ?_, ?_, rfl⟩
    · simp [hsp]
    · simp [hsp]
  · rw [State.returnFromCall_empty _ hsp] at hexec
    exact hexec

end Sys2Proof.Machine

/-! ### Registers and arithmetic

What one register write, and one flag write before it, leave unchanged; then the numbers that the flags and the results are. -/

namespace Sys2Proof.Machine

open Sys2Proof.Claims

section RegisterWrites

variable {i : Instr} {s : State} {x : Nibble} {b f : Byte} {P : State → Prop}

theorem frame_setReg (s : State) (x : Nibble) (b : Byte) : Frame (onlyReg x) s (s.setReg x b) := by
  simp +contextual [Frame, onlyReg, nothing]

theorem frame_storeRandom (s : State) (x : Nibble) (kk r : Byte) :
    Frame { onlyReg x with draws := true } s (s.storeRandom x kk r) := by
  simp +contextual [Frame, onlyReg, nothing, State.storeRandom]

theorem frame_setVF_setReg (s : State) (x : Nibble) (f b : Byte) :
    Frame (onlyRegAndVF x) s ((s.setReg vF f).setReg x b) := by
  simp +contextual [Frame, onlyRegAndVF, nothing, vF]

theorem State.reg_setVF (s : State) (f : Byte) : (s.setReg vF f).reg 0xF = f := by simp [vF]

theorem State.reg_setVF_of_ne (f : Byte) (h : x ≠ 0xF) : (s.setReg vF f).reg x = s.reg x :=
  (State.reg_setReg _ _ _ _).trans (if_neg h)

/-- An instruction that writes one register completes with that register alone changed. -/
theorem completes_setReg (h : exec i s = .next (s.setReg x b)) (hP : ∀ t : State, t.reg x = b → P t) :
    Completes i s (onlyReg x) P :=
  ⟨_, h, frame_setReg s x b, hP _ (by simp)⟩

/-- An instruction that writes VF and then Vx: the flag stays in VF unless x = F (R136 to R140, D7). -/
theorem completes_setVF_setReg (h : exec i s = .next ((s.setReg vF f).setReg x b))
    (hP : ∀ t : State, t.reg x = b → (x ≠ 0xF → t.reg 0xF = f) → P t) : Completes i s (onlyRegAndVF x) P := by
  refine ⟨_, h, frame_setVF_setReg s x f b, hP _ (by simp) fun hx => ?_⟩
  rw [State.reg_setReg, if_neg (Ne.symm hx), State.reg_setVF]

/-- An instruction that writes VF and then combines Vx and Vy, as they stand by then: an operand that is VF reads as the flag,
and with both of them VF the flag meets itself (R137, R139, D7). `op` is what the combination `g` is on numbers. -/
theorem completes_setVF_combine {y : Nibble} {n : Nat} {g : Byte → Byte → Byte} {op : Nat → Nat → Nat} (hf : f.toNat = n)
    (hg : ∀ a b, (g a b).toNat = op a.toNat b.toNat) (hself : ∀ a, g a a = 0)
    (h : exec i s = .next ((s.setReg vF f).setReg x (g ((s.setReg vF f).reg x) ((s.setReg vF f).reg y)))) :
    Completes i s (onlyRegAndVF x) fun t =>
      (x ≠ 0xF → y ≠ 0xF → (t.reg 0xF).toNat = n ∧ (t.reg x).toNat = op (s.reg x).toNat (s.reg y).toNat) ∧
      (x ≠ 0xF → y = 0xF → (t.reg 0xF).toNat = n ∧ (t.reg x).toNat = op (s.reg x).toNat n) ∧
      (x = 0xF → y ≠ 0xF → (t.reg 0xF).toNat = op n (s.reg y).toNat) ∧
      (x = 0xF → y = 0xF → t.reg 0xF = 0) := by
  subst hf
  refine completes_setVF_setReg h fun t hres hflag =>
    ⟨fun hx hy => ⟨by rw [hflag hx], ?_⟩, fun hx hy => ⟨by rw [hflag hx], ?_⟩, fun hx hy => ?_, fun hx hy => ?_⟩
  · rw [hres, hg, State.reg_setVF_of_ne _ hx, State.reg_setVF_of_ne _ hy]
  · subst hy; rw [hres, hg, State.reg_setVF_of_ne _ hx, State.reg_setVF]
  · subst hx; rw [hres, hg, State.reg_setVF, State.reg_setVF_of_ne _ hy]
  · subst hx hy; exact hres.trans (hself _)

end RegisterWrites

/-! #### The flags and the results as numbers -/

theorem toNat_boolByte (c : Bool) : (boolByte c).toNat = flagOf c := by cases c <;> rfl

theorem toNat_carryFlag (a b : Byte) : (carryFlag a b).toNat = flagOf (decide (a.toNat + b.toNat > 255)) :=
  toNat_boolByte _

theorem toNat_greaterFlag (a b : Byte) : (greaterFlag a b).toNat = flagOf (decide (a.toNat > b.toNat)) :=
  toNat_boolByte _

theorem toNat_shiftedOutLow (a : Byte) : (shiftedOutLow a).toNat = a.toNat % 2 :=
  (BitVec.toNat_and a 1).trans (Nat.and_one_is_mod _)

theorem toNat_shiftedOutHigh (a : Byte) : (shiftedOutHigh a).toNat = a.toNat / 128 := by
  have h : a.toNat / 128 < 2 := by have := a.isLt; omega
  calc (shiftedOutHigh a).toNat = (a >>> 7).toNat % 2 := toNat_shiftedOutLow _
    _ = a.toNat / 128 := by rw [BitVec.toNat_ushiftRight, Nat.shiftRight_eq_div_pow, Nat.mod_eq_of_lt h]

theorem toNat_sub_byte (a b : Byte) : (a - b).toNat = (a.toNat + 256 - b.toNat) % 256 := by
  rw [BitVec.toNat_sub]; have := b.isLt; omega

theorem toNat_shiftRight_one (a : Byte) : (a >>> 1).toNat = a.toNat / 2 := Nat.shiftRight_eq_div_pow _ _

theorem toNat_shiftLeft_one (a : Byte) : (a <<< 1).toNat = 2 * a.toNat % 256 := by
  rw [BitVec.toNat_shiftLeft, Nat.shiftLeft_eq, Nat.mul_comm]

/-! #### The instructions -/

/-- Settles O37: the sum and the carry are computed from the registers before any write. -/
theorem addWithCarry : Obligations.AddWithCarry := fun x y _ =>
  ⟨decode_encode (.addReg x y), completes_setVF_setReg rfl fun _ hsum hflag =>
    ⟨hsum ▸ BitVec.toNat_ofNat _ _, fun hx => hflag hx ▸ toNat_carryFlag _ _⟩⟩

/-- Settles O38: the difference Vx - Vy, from the registers after VF is written. -/
theorem subtractWithNotBorrow : Obligations.SubtractWithNotBorrow := fun x y _ =>
  ⟨decode_encode (.subReg x y), completes_setVF_combine (g := fun a b => a - b) (op := fun a b => (a + 256 - b) % 256)
    (toNat_greaterFlag _ _) toNat_sub_byte (fun _ => BitVec.sub_self _) rfl⟩

/-- Settles O39: the difference Vy - Vx, from the registers after VF is written. -/
theorem reverseSubtractWithNotBorrow : Obligations.ReverseSubtractWithNotBorrow := fun x y _ =>
  ⟨decode_encode (.subnReg x y), completes_setVF_combine (g := fun a b => b - a) (op := fun a b => (b + 256 - a) % 256)
    (toNat_greaterFlag _ _) (fun a b => toNat_sub_byte b a) (fun _ => BitVec.sub_self _) rfl⟩

/-- Settles O40: the shift reads Vx after VF is written, so with x = F it shifts the flag. -/
theorem shiftsByOne : Obligations.ShiftsByOne := by
  refine fun x y s => ⟨by simp [decode, decodeGroup8], by simp [decode, decodeGroup8],
    completes_setVF_setReg rfl fun t hshift hflag => ⟨fun hx => ⟨?_, ?_⟩, fun hx => ?_⟩,
    completes_setVF_setReg rfl fun t hshift hflag => ⟨fun hx => ⟨?_, ?_⟩, fun hx => ?_⟩⟩
  · rw [hflag hx, toNat_shiftedOutLow]
  · rw [hshift, State.reg_setVF_of_ne _ hx, toNat_shiftRight_one]
  · subst hx
    apply BitVec.eq_of_toNat_eq
    rw [hshift, State.reg_setVF, toNat_shiftRight_one, toNat_shiftedOutLow]
    exact Nat.div_eq_of_lt (Nat.mod_lt _ (by decide))
  · rw [hflag hx, toNat_shiftedOutHigh]
  · rw [hshift, State.reg_setVF_of_ne _ hx, toNat_shiftLeft_one]
  · subst hx
    rw [hshift, State.reg_setVF, toNat_shiftLeft_one, toNat_shiftedOutHigh]
    have := (s.reg 0xF).isLt; omega

/-- Settles O35: both are one register write. -/
theorem immediateLoadAndAdd : Obligations.ImmediateLoadAndAdd := fun x kk _ =>
  ⟨decode_encode (.ldImm x kk), decode_encode (.addImm x kk), completes_setReg rfl fun _ h => h,
    completes_setReg rfl fun _ h => h ▸ BitVec.toNat_add _ _⟩

/-- Settles O36: all four are one register write. -/
theorem transferAndBitwise : Obligations.TransferAndBitwise := fun x y _ =>
  ⟨decode_encode (.ldReg x y), decode_encode (.orReg x y), decode_encode (.andReg x y), decode_encode (.xorReg x y),
    completes_setReg rfl fun _ h => h,
    completes_setReg rfl fun _ h _ _ => h ▸ BitVec.getLsbD_or,
    completes_setReg rfl fun _ h _ _ => h ▸ BitVec.getLsbD_and,
    completes_setReg rfl fun _ h _ _ => h ▸ BitVec.getLsbD_xor⟩

/-- Settles O41: the byte is that of the draw count before, and the draw is counted. -/
theorem randomIsMasked : Obligations.RandomIsMasked := by
  refine fun x kk s => ⟨decode_encode (.rnd x kk), _, rfl, frame_storeRandom s x kk _, rfl, fun b _ => ?_⟩
  rw [State.reg_storeRandom, if_pos rfl]
  exact BitVec.getLsbD_and

end Sys2Proof.Machine

/-! ### The index register and memory

What each shared operation leaves of the bytes of memory, then which instructions write memory and where. After that, what one
write of `I`, of memory or of a block of registers leaves unchanged (42_index_memory.md). -/

namespace Sys2Proof.Machine

/-- Only memory and the configuration's fontset decide what a byte reads as (20_memory.md R69). -/
theorem State.memRead_congr {s t : State} (hmem : t.mem = s.mem) (hconfig : t.config = s.config) (p : Word) :
    t.memRead p = s.memRead p := by unfold State.memRead; rw [hmem, hconfig]

section MemoryBytes

variable (s : State) (p : Word)

@[simp] theorem State.memRead_skipIf (c : Bool) : (s.skipIf c).memRead p = s.memRead p :=
  State.memRead_congr (by simp) (by simp) p

@[simp] theorem State.memRead_callTo (a : Word) : (s.callTo a).memRead p = s.memRead p := by
  unfold State.callTo; split <;> rfl

@[simp] theorem State.memRead_returnFromCall : s.returnFromCall.memRead p = s.memRead p := by
  unfold State.returnFromCall; split <;> rfl

@[simp] theorem State.memRead_storeRandom (x : Nibble) (kk r : Byte) : (s.storeRandom x kk r).memRead p = s.memRead p := rfl

@[simp] theorem State.memRead_loadBlock (n : Nat) : (s.loadBlock n).memRead p = s.memRead p :=
  State.memRead_congr (by simp) (by simp) p

@[simp] theorem State.memRead_drawRows (ox oy n : Nat) : (s.drawRows ox oy n).memRead p = s.memRead p :=
  State.memRead_congr (by simp) (by simp) p

@[simp] theorem State.memRead_timerPhase : s.timerPhase.memRead p = s.memRead p := by
  rw [State.timerPhase_eq, State.memRead_setDT]

@[simp] theorem State.memRead_retire (w : Word) : (s.retire w).memRead p = s.memRead p := by
  unfold State.retire; split <;> simp

end MemoryBytes

section StoreAddresses

variable {s : State} {p : Word}

/-- A byte outside the three digits' addresses reads as before the BCD store (R163). -/
theorem State.memRead_storeBcd_outside (v : Byte) (h : ∀ k, k < 3 → portAddr p ≠ portAddr (s.indexed k)) :
    (s.storeBcd v).memRead p = s.memRead p := by
  rw [State.memRead_storeBcd, if_neg (h 2 (by decide)), if_neg (h 1 (by decide)), if_neg (h 0 (by decide))]

/-- A byte that the BCD store changes lies at `(I + k) mod 4096` for one of the three digits. -/
theorem State.address_of_storeBcd_changes {v : Byte} (h : (s.storeBcd v).memRead p ≠ s.memRead p) :
    ∃ k, k < 3 ∧ p.toNat % 4096 = (s.I.toNat + k) % 4096 :=
  Decidable.byContradiction fun hno =>
    h (State.memRead_storeBcd_outside v fun k hk hp => hno ⟨k, hk, hp.trans (s.portAddr_indexed k)⟩)

/-- A byte that the block store changes lies at `(I + k) mod 4096` for one of the registers stored. -/
theorem State.address_of_storeBlock_changes {n : Nat} (hn : n ≤ 16) (h : (s.storeBlock n).memRead p ≠ s.memRead p) :
    ∃ k, k < n ∧ p.toNat % 4096 = (s.I.toNat + k) % 4096 :=
  Decidable.byContradiction fun hno =>
    h ((s.memRead_storeBlock hn p).2 fun k hk hp => hno ⟨k, hk, hp.trans (s.portAddr_indexed k)⟩)

end StoreAddresses

variable {i : Instr} {s t : State}

/-- The table of accesses in 20_memory.md, for execute: an instruction leaves every byte of memory alone, or it is one of the
two stores. -/
theorem exec_memory_cases (h : exec i s = .next t) :
    (∀ p, t.memRead p = s.memRead p) ∨
    (∃ x, i = .ldB x ∧ t = s.storeBcd (s.reg x)) ∨
    (∃ x, i = .storeRegs x ∧ t = s.storeBlock (x.toNat + 1)) := by
  cases i with
  | ldB x => exact .inr (.inl ⟨x, rfl, (Host.Outcome.next.inj h).symm⟩)
  | storeRegs x => exact .inr (.inr ⟨x, rfl, (Host.Outcome.next.inj h).symm⟩)
  | skp x | sknp x | ldF x | ldKey x =>
    -- two outcomes each: a digit out of range faults, a wait without a key goes back to its own address
    simp only [exec, execSkp, execSknp, execLdF, execLdKey] at h
    split at h <;> obtain rfl := Host.Outcome.next.inj h <;> exact .inl (by simp)
  | _ =>
    -- by definition an operation that writes no byte of memory
    obtain rfl := Host.Outcome.next.inj h
    exact .inl (by simp)

/-- Settles O27: of the parts of a step, execute alone writes memory, and in it the two stores alone, each at its own
addresses. -/
theorem onlyBcdAndBlockStoreWriteMemory : Obligations.OnlyBcdAndBlockStoreWriteMemory := by
  intro s t p h hne
  obtain ⟨-, rfl⟩ | ⟨-, i, u, hd, hu, rfl⟩ | ⟨-, -, rfl⟩ := step_cases h
  · exact absurd rfl hne
  · rw [State.memRead_retire, ← s.memRead_advance p] at hne
    obtain hsame | ⟨x, rfl, rfl⟩ | ⟨x, rfl, rfl⟩ := exec_memory_cases hu
    · exact absurd (hsame p) hne
    · exact .inl ⟨x, hd, State.address_of_storeBcd_changes hne⟩
    · obtain ⟨k, hk, hp⟩ := State.address_of_storeBlock_changes (Nat.succ_le_of_lt x.isLt) hne
      exact .inr ⟨x, hd, k, Nat.le_of_lt_succ hk, hp⟩
  · exact absurd (by simp) hne

/-! #### What the index and memory instructions leave unchanged -/

open Sys2Proof.Claims

theorem frame_setI (s : State) (a : Word) : Frame { nothing with I := true } s (s.setI a) := by simp [Frame, nothing]

theorem frame_mem (s : State) (m : Memory) : Frame { nothing with mem := true } s { s with mem := m } :=
  ⟨fun _ _ => rfl, fun _ => rfl, fun _ => rfl, fun _ => ⟨rfl, rfl⟩, fun _ => rfl, nofun, fun _ => rfl, fun _ => rfl,
    rfl, rfl, rfl, rfl, rfl⟩

theorem frame_storeBcd (s : State) (v : Byte) : Frame { nothing with mem := true } s (s.storeBcd v) := frame_mem s _

theorem frame_storeBlock (s : State) (n : Nat) : Frame { nothing with mem := true } s (s.storeBlock n) := by
  rw [State.storeBlock_eq]; exact frame_mem s _

theorem frame_loadBlock (s : State) {n : Nat} (hn : n ≤ 16) :
    Frame { nothing with regs := fun r => decide (r.toNat < n) } s (s.loadBlock n) := by
  have hregs : ∀ r : Nibble, decide (r.toNat < n) = false → (s.loadBlock n).reg r = s.reg r := fun r hr => by
    rw [State.reg_loadBlock _ hn, if_neg (of_decide_eq_false hr)]
  rw [State.loadBlock_eq]
  exact ⟨hregs, fun _ => rfl, fun _ => rfl, fun _ => ⟨rfl, rfl⟩, fun _ => rfl, fun _ _ => rfl, fun _ => rfl, fun _ => rfl,
    rfl, rfl, rfl, rfl, rfl⟩

/-- An instruction that writes `I` completes with `I` alone changed. -/
theorem completes_setI {a : Word} {n : Nat} (h : exec i s = .next (s.setI a)) (ha : a.toNat = n) :
    Completes i s { nothing with I := true } fun t => t.I.toNat = n :=
  ⟨_, h, frame_setI s a, ha⟩

/-! #### The glyph address and the digits as numbers -/

theorem digitInRange_iff (b : Byte) : digitInRange b = true ↔ b.toNat ≤ 15 := decide_eq_true_iff

/-- No glyph address leaves the 16 bits of `I` (R162). -/
theorem toNat_glyphAddr (d : Byte) : (glyphAddr d).toNat = 0x050 + 5 * d.toNat := by
  have h : 0x050 + 5 * d.toNat < 2 ^ 16 := by have := d.isLt; omega
  exact (BitVec.toNat_ofNat _ _).trans (Nat.mod_eq_of_lt h)

theorem toNat_bcdHundreds (v : Byte) : (bcdHundreds v).toNat = v.toNat / 100 := by
  rw [bcdHundreds, BitVec.toNat_ofNat]; have := v.isLt; omega

theorem toNat_bcdTens (v : Byte) : (bcdTens v).toNat = v.toNat / 10 % 10 := by
  rw [bcdTens, BitVec.toNat_ofNat]; omega

theorem toNat_bcdOnes (v : Byte) : (bcdOnes v).toNat = v.toNat % 10 := by
  rw [bcdOnes, BitVec.toNat_ofNat]; omega

/-! #### The instructions -/

/-- Settles O45: the three digits lie at different addresses, so no digit overwrites another. -/
theorem bcdStoresThreeDigits : Obligations.BcdStoresThreeDigits := by
  intro x s
  refine ⟨decode_encode (.ldB x), fun k _ => s.portAddr_indexed k, s.storeBcd (s.reg x), rfl, frame_storeBcd s _,
    fun p => ⟨fun hp => ?_, fun hp => ?_, fun hp => ?_, State.memRead_storeBcd_outside _⟩⟩
  all_goals rw [State.memRead_storeBcd, hp]
  · simp [State.portAddr_indexed_inj, toNat_bcdHundreds]
  · simp [State.portAddr_indexed_inj, toNat_bcdTens]
  · simp [toNat_bcdOnes]

/-- Settles O46: the block store of the registers 0 to x. -/
theorem blockStore : Obligations.BlockStore := by
  intro x s
  refine ⟨decode_encode (.storeRegs x), fun k _ => s.portAddr_indexed k, s.storeBlock (x.toNat + 1), rfl,
    frame_storeBlock s _, fun p => ?_⟩
  obtain ⟨hstored, houtside⟩ := s.memRead_storeBlock (Nat.succ_le_of_lt x.isLt) p
  refine ⟨fun r hr hp => ?_, fun h => houtside fun k hk => h k (Nat.le_of_lt_succ hk)⟩
  rw [hstored r.toNat (Nat.lt_succ_of_le hr) hp, regIndex_of_toNat]

/-- Settles O47: the block load of the registers 0 to x. -/
theorem blockLoad : Obligations.BlockLoad := by
  intro x s
  have hx : x.toNat + 1 ≤ 16 := Nat.succ_le_of_lt x.isLt
  refine ⟨decode_encode (.loadRegs x), fun k _ => s.portAddr_indexed k, s.loadBlock (x.toNat + 1), rfl, ?_, fun r hr => ?_⟩
  · simpa only [Nat.lt_succ_iff] using frame_loadBlock s hx
  · rw [State.reg_loadBlock _ hx, if_pos (Nat.lt_succ_of_le hr)]

/-- Settles O42: the address is written to `I` with zero bits above it. -/
theorem loadIndex : Obligations.LoadIndex := fun nnn _ =>
  ⟨decode_encode (.ldI nnn), completes_setI rfl (toNat_addrOperand nnn)⟩

/-- Settles O43: the register, widened, is added on the 16 bits of `I`. -/
theorem addToIndex : Obligations.AddToIndex := by
  intro x s
  have hbyte : (byteOperand (s.reg x)).toNat = (s.reg x).toNat := BitVec.toNat_setWidth_of_le (by decide)
  exact ⟨decode_encode (.addI x), completes_setI rfl (by rw [BitVec.toNat_add, hbyte])⟩

/-- Settles O44: a digit in range completes with its glyph's address in `I`, another value takes the fault. -/
theorem loadFontAddress : Obligations.LoadFontAddress := by
  intro x s
  have hexec : exec (.ldF x) s = if digitInRange (s.reg x) then .next (s.setI (glyphAddr (s.reg x)))
      else .next (s.raiseFault .fontDigitRange) := rfl
  refine ⟨decode_encode (.ldF x), fun hd => ?_, fun hd => ?_⟩
  · rw [if_pos ((digitInRange_iff _).2 hd)] at hexec
    exact completes_setI hexec (toNat_glyphAddr _)
  · rw [if_neg fun h => Nat.not_lt_of_le ((digitInRange_iff _).1 h) hd] at hexec
    exact hexec

end Sys2Proof.Machine

/-! ### Display

The video buffer across the shared operations, then which instructions write it. After that, the clear and the draw: the cells
they leave on, the flag, and what they leave unchanged (43_display.md). -/

namespace Sys2Proof.Machine

open Sys2Proof.Claims

section VideoBuffer

variable (s : State)

@[simp] theorem State.callTo_video (a : Word) : (s.callTo a).video = s.video := by unfold State.callTo; split <;> rfl
@[simp] theorem State.returnFromCall_video : s.returnFromCall.video = s.video := by
  unfold State.returnFromCall; split <;> rfl
@[simp] theorem State.storeBcd_video (v : Byte) : (s.storeBcd v).video = s.video := rfl
@[simp] theorem State.timerPhase_video : s.timerPhase.video = s.video := by rw [State.timerPhase_eq, State.setDT_video]
@[simp] theorem State.retire_video (w : Word) : (s.retire w).video = s.video := by
  unfold State.retire; split <;> simp

end VideoBuffer

/-- R31, for execute: an instruction leaves the video buffer alone, or it is the clear or a draw. -/
theorem exec_video_cases {i : Instr} {s t : State} (h : exec i s = .next t) :
    t.video = s.video ∨ i = .cls ∨ ∃ x y n, i = .drw x y n := by
  cases i with
  | cls => exact .inr (.inl rfl)
  | drw x y n => exact .inr (.inr ⟨x, y, n, rfl⟩)
  | skp x | sknp x | ldF x | ldKey x =>
    -- two outcomes each: a digit out of range faults, a wait without a key goes back to its own address
    simp only [exec, execSkp, execSknp, execLdF, execLdKey] at h
    split at h <;> obtain rfl := Host.Outcome.next.inj h <;> exact .inl (by simp)
  | _ =>
    -- by definition an operation that does not touch the video buffer
    obtain rfl := Host.Outcome.next.inj h
    exact .inl (by simp)

/-- Settles O26: of the parts of a step, execute alone writes the video buffer, and in it CLS and DRW alone. -/
theorem onlyClearAndDrawWriteTheScreen : Obligations.OnlyClearAndDrawWriteTheScreen := by
  intro s t h hne
  obtain ⟨-, rfl⟩ | ⟨-, i, u, hd, hu, rfl⟩ | ⟨-, -, rfl⟩ := step_cases h
  · exact absurd rfl hne
  · rw [State.retire_video] at hne
    obtain hsame | rfl | ⟨x, y, n, rfl⟩ := exec_video_cases hu
    · exact absurd hsame hne
    · exact .inl hd
    · exact .inr ⟨x, y, n, hd⟩
  · exact absurd (by simp) hne

/-! #### The clear -/

theorem frame_clearVideo (s : State) : Frame { nothing with video := true } s s.clearVideo := by simp [Frame, nothing]

/-- Settles O48: the clear empties the list of lit cells and touches nothing else. -/
theorem clearScreen : Obligations.ClearScreen := fun s =>
  ⟨decode_encode .cls, s.clearVideo, rfl, frame_clearVideo s, fun x y _ _ => s.pixel_clearVideo x y⟩

/-! #### The draw -/

/-- A cell is covered when it lies in the eight columns and n rows from the origin, under a set bit of its row (R182). -/
theorem covered_iff {s : State} {x y n : Nibble} {px py : Nat} : covered s x y n px py = true ↔
    s.originY y ≤ py ∧ py < s.originY y + n.toNat ∧ s.originX x ≤ px ∧ px < s.originX x + 8 ∧
      spriteBit (s.memRead (s.indexed (py - s.originY y))) (px - s.originX x) = true := by
  simp only [covered, Bool.and_eq_true, decide_eq_true_iff]
  exact ⟨fun ⟨⟨hx, hx', hy, hy'⟩, hb⟩ => ⟨hy, hy', hx, hx', hb⟩, fun ⟨hy, hy', hx, hx', hb⟩ => ⟨⟨hx, hx', hy, hy'⟩, hb⟩⟩

/-- What the covered cells depend on: the screen's size, the two coordinates, and the sprite. -/
theorem covered_congr {s t : State} {x y : Nibble} (hc : t.config = s.config) (hI : t.I = s.I)
    (hm : ∀ a, t.memRead a = s.memRead a) (hx : t.reg x = s.reg x) (hy : t.reg y = s.reg y) (n : Nibble) (px py : Nat) :
    covered t x y n px py = covered s x y n px py := by
  simp only [covered, State.indexed, hc, hI, hm, hx, hy]

/-- What `DRW Vx, Vy, n` makes of `s`: the origin is taken before VF is cleared (R182, D8). -/
def State.drawSprite (s : State) (x y n : Nibble) : State :=
  (s.setReg vF noCollisionFlag).drawRows (s.originX x) (s.originY y) n.toNat

theorem exec_drw (x y n : Nibble) (s : State) : exec (.drw x y n) s = .next (s.drawSprite x y n) := rfl

section Draw

variable (s : State) (x y n : Nibble)

theorem frame_drawSprite :
    Frame { nothing with regs := fun r => r == 0xF, video := true } s (s.drawSprite x y n) := by
  have hregs : ∀ r : Nibble, (r == 0xF) = false → (s.drawSprite x y n).reg r = s.reg r := fun r hr =>
    exec_keeps_unnamed_reg (exec_drw x y n s) hr
  have hmem : ∀ a, (s.drawSprite x y n).memRead a = s.memRead a := fun a => State.memRead_drawRows _ _ _ _ _
  refine ⟨hregs, ?_, ?_, ?_, ?_, fun _ => hmem, nofun, ?_⟩
  all_goals rw [State.drawSprite, State.drawRows_eq]; simp

/-- Each cell of the screen that is covered has flipped, every other is as before (R183). -/
theorem State.pixel_drawSprite {px py : Nat} (hx : px < s.config.W) (hy : py < s.config.H) :
    (s.drawSprite x y n).pixel px py = (s.pixel px py ^^ covered s x y n px py) := by
  rw [State.drawSprite, State.pixel_drawRows (s.setReg vF noCollisionFlag) _ _ _ hx hy]
  congr 1
  rw [Bool.eq_iff_iff, decide_eq_true_iff, covered_iff]
  rfl

/-- The loops of the draw unit, which count rows and columns from the origin, find a hit exactly when there is a collision. -/
theorem State.spriteHits_iff_collides :
    s.spriteHits (s.originX x) (s.originY y) n.toNat = true ↔ Collides s x y n := by
  simp only [State.spriteHits, State.rowHits, State.onScreen, Collides, covered_iff, List.any_eq_true, List.mem_range,
    Bool.and_eq_true, decide_eq_true_iff]
  constructor
  · rintro ⟨r, hr, c, hc, ⟨hbit, hW, hH⟩, hon⟩
    refine ⟨s.originX x + c, s.originY y + r, hW, hH, ⟨by omega, by omega, by omega, by omega, ?_⟩, hon⟩
    rwa [Nat.add_sub_cancel_left, Nat.add_sub_cancel_left]
  · rintro ⟨px, py, hW, hH, ⟨hy, hy', hx, hx', hbit⟩, hon⟩
    refine ⟨py - s.originY y, by omega, px - s.originX x, by omega, ⟨hbit, ?_⟩, ?_⟩ <;>
      rw [Nat.add_sub_cancel' hx, Nat.add_sub_cancel' hy]
    exacts [⟨hW, hH⟩, hon]

/-- VF after a draw tells whether there was a collision (R182). -/
theorem State.reg_vF_drawSprite :
    (Collides s x y n ∧ (s.drawSprite x y n).reg 0xF = 1) ∨ (¬ Collides s x y n ∧ (s.drawSprite x y n).reg 0xF = 0) := by
  have hflag : (s.drawSprite x y n).reg 0xF =
      if s.spriteHits (s.originX x) (s.originY y) n.toNat = true then 1 else 0 := by
    rw [State.drawSprite, State.reg_drawRows, State.reg_setVF]
    exact if_congr (and_iff_right rfl) rfl rfl
  rw [hflag, ← s.spriteHits_iff_collides]
  split
  next h => exact .inl ⟨h, rfl⟩
  next h => exact .inr ⟨h, rfl⟩

end Draw

/-- Settles O49: the cells, the flag and the frame of a draw. -/
theorem drawFlipsTheCoveredCells : Obligations.DrawFlipsTheCoveredCells := by
  intro x y n s
  refine ⟨decode_encode (.drw x y n), _, exec_drw x y n s, frame_drawSprite s x y n,
    fun px py hx hy => s.pixel_drawSprite x y n hx hy, ?_⟩
  obtain ⟨hhit, hVF⟩ | ⟨hmiss, hVF⟩ := s.reg_vF_drawSprite x y n
  · exact ⟨fun _ => hVF, fun hmiss => absurd hhit hmiss⟩
  · exact ⟨fun hhit => absurd hhit hmiss, fun _ => hVF⟩

/-- Settles O50: both draws cover the same cells, so each cell flips twice or not at all; and the second draw collides on the
covered cells that the first left on. -/
theorem drawTwiceRestoresTheScreen : Obligations.DrawTwiceRestoresTheScreen := by
  intro x y n s t t' u ht hconfig hvideo hI hmem hx hy hu
  obtain rfl : s.drawSprite x y n = t := Host.Outcome.next.inj ht
  obtain rfl : t'.drawSprite x y n = u := Host.Outcome.next.inj hu
  obtain ⟨-, hIs, -, -, -, hmems, -, -, hconfigs, -⟩ := frame_drawSprite s x y n
  have hc : t'.config = s.config := hconfig.trans hconfigs
  have hcov : ∀ px py, covered t' x y n px py = covered s x y n px py :=
    covered_congr hc (hI.trans (hIs rfl)) (fun a => (hmem a).trans (hmems rfl a)) hx hy n
  have hpixel : ∀ px py, t'.pixel px py = (s.drawSprite x y n).pixel px py := fun px py => by
    unfold State.pixel; rw [hconfig, hvideo]
  have hcollides : Collides t' x y n ↔ ∃ px py, px < s.config.W ∧ py < s.config.H ∧ covered s x y n px py = true ∧
      (s.drawSprite x y n).pixel px py = true := by simp only [Collides, hc, hcov, hpixel]
  refine ⟨fun px py hW hH => ?_, ?_⟩
  · calc (t'.drawSprite x y n).pixel px py
      _ = (t'.pixel px py ^^ covered t' x y n px py) := t'.pixel_drawSprite x y n (hc ▸ hW) (hc ▸ hH)
      _ = ((s.pixel px py ^^ covered s x y n px py) ^^ covered s x y n px py) := by
        rw [hcov, hpixel, s.pixel_drawSprite x y n hW hH]
      _ = s.pixel px py := by rw [Bool.xor_assoc, Bool.xor_self, Bool.xor_false]
  · rw [← hcollides]
    obtain ⟨hhit, hVF⟩ | ⟨hmiss, hVF⟩ := t'.reg_vF_drawSprite x y n <;> rw [hVF]
    · exact ⟨iff_of_true rfl hhit, .inl rfl⟩
    · exact ⟨iff_of_false (by decide) hmiss, .inr rfl⟩

end Sys2Proof.Machine

/-! ### Keypad and timer

The step of an instruction that is fetched, and the components of its end that these rules speak of. After that, the two skips,
the timer's transfers and the wait for a key (44_keypad_timer_io.md). -/

namespace Sys2Proof.Machine

open Sys2Proof.Claims

section FetchedStep

variable {s t : State} {i : Instr}

@[simp] theorem State.retire_pc (s : State) (w : Word) : (s.retire w).pc = s.pc := by
  unfold State.retire; split <;> simp [State.timerPhase_eq]

@[simp] theorem State.retire_unknown (s : State) (w : Word) : (s.retire w).unknown = s.unknown := by
  unfold State.retire; split <;> simp [State.timerPhase_eq]

/-- A step that fetches `i` is `exec i` on the advanced state, then the end of the step (30_encoding.md R90). -/
theorem step_of_fetches (h : Fetches s i) (hexec : exec i s.advance = .next t) :
    step s = .next (t.retire s.fetchWord) := by
  obtain ⟨hf, hd⟩ := h
  rw [step_of_instr s hf hd, hexec, finish]

/-- In COUPLED mode the end of a step without a fault takes DT down by one, and leaves 0 at 0 (60_exceptions.md R230). -/
theorem State.toNat_DT_retire_coupled (w : Word) (hf : s.fault = none) (hmode : s.config.timerMode = .coupled) :
    (s.retire w).DT.toNat = s.DT.toNat - 1 := by
  rw [State.retire_eq s w hf]
  by_cases hDT : s.DT = 0
  · simp [hDT]
  · have hone : 1 ≤ s.DT := by bv_omega
    exact (congrArg BitVec.toNat (if_pos ⟨hmode, hDT⟩)).trans (BitVec.toNat_sub_of_le hone)

end FetchedStep

/-! #### The skips on a key -/

section KeySkips

variable {s : State} {x : Nibble}

theorem exec_skp_of_digit (h : (s.reg x).toNat ≤ 15) :
    exec (.skp x) s = .next (s.skipIf (s.key (s.reg x).toNat)) := if_pos ((digitInRange_iff _).2 h)

theorem exec_sknp_of_digit (h : (s.reg x).toNat ≤ 15) :
    exec (.sknp x) s = .next (s.skipIf (!s.key (s.reg x).toNat)) := if_pos ((digitInRange_iff _).2 h)

/-- A value above 15 names no key: both skips take the fault (D10). -/
theorem takesFault_skips (h : (s.reg x).toNat > 15) :
    TakesFault (.skp x) s .keyIndexRange ∧ TakesFault (.sknp x) s .keyIndexRange := by
  have hout : ¬ digitInRange (s.reg x) = true := fun hin => Nat.not_lt_of_le ((digitInRange_iff _).1 hin) h
  exact ⟨if_neg hout, if_neg hout⟩

end KeySkips

/-- Settles O52: with a digit in range both are conditional skips, on complementary conditions. -/
theorem skipsOnKey : Obligations.SkipsOnKey := by
  refine fun x s => ⟨decode_encode (.skp x), decode_encode (.sknp x), fun h => ⟨?_, ?_⟩, takesFault_skips⟩
  · exact completes_skipIf (exec_skp_of_digit h) Iff.rfl
  · have hnot : (!s.key (s.reg x).toNat) = true ↔ ¬ s.key (s.reg x).toNat = true := by simp
    simpa only [ite_not] using completes_skipIf (exec_sknp_of_digit h) hnot

/-! #### The timer instructions -/

theorem frame_setDT (s : State) (b : Byte) : Frame { nothing with DT := true } s (s.setDT b) := by simp [Frame, nothing]

/-- Settles O55: the transfer is a write of DT alone. -/
theorem setDelayTimer : Obligations.SetDelayTimer := fun x s =>
  ⟨decode_encode (.ldDT x), s.setDT (s.reg x), rfl, frame_setDT s _, rfl⟩

/-- Settles O53: execute reads DT, and the decrement comes at the end of the step. -/
theorem loadFromDelayTimer : Obligations.LoadFromDelayTimer := by
  refine fun x s => ⟨decode_encode (.ldFromDT x), completes_setReg rfl fun _ h => h, fun hfetch hmode => ?_⟩
  have hexec : exec (.ldFromDT x) s.advance = .next (s.advance.setReg x s.DT) := rfl
  exact ⟨_, step_of_fetches hfetch hexec, by simp, State.toNat_DT_retire_coupled _ hfetch.1 hmode⟩

/-- Settles O56: execute answers the state it was given, so the step only advances and ends. -/
theorem setSoundTimerDoesNothing : Obligations.SetSoundTimerDoesNothing := by
  refine fun x s => ⟨decode_encode (.ldST x), rfl, fun hfetch => ?_⟩
  have hexec : exec (.ldST x) s.advance = .next s.advance := rfl
  exact ⟨_, step_of_fetches hfetch hexec, by simp, by simp, by simp⟩

/-! #### The wait for a key -/

section KeyWait

variable {s : State} (x : Nibble)

theorem exec_ldKey_of_some {k : Nat} (h : s.lowestKey = some k) :
    exec (.ldKey x) s = .next (s.setReg x (BitVec.ofNat 8 k)) := by
  simp only [exec, execLdKey, h]

theorem exec_ldKey_of_none (h : s.lowestKey = none) : exec (.ldKey x) s = .next (s.setPc (s.pc - 2)) := by
  simp only [exec, execLdKey, h]

/-- With no key pressed the wait takes the advance back, so the step leaves `pc` at the fetch address (R203). -/
theorem step_of_ldKey_of_none (hfetch : Fetches s (.ldKey x)) (h : s.lowestKey = none) :
    ∃ t, step s = .next t ∧ t.pc = s.pc ∧ ∀ r, t.reg r = s.reg r := by
  have hexec := exec_ldKey_of_none x (s.lowestKey_advance.trans h)
  exact ⟨_, step_of_fetches hfetch hexec, (State.retire_pc _ _).trans (BitVec.add_sub_cancel _ _), by simp⟩

end KeyWait

/-- Settles O54: a lowest pressed key is written to the register; without one `pc` goes back by the advance. -/
theorem keyWaitTakesTheLowestKey : Obligations.KeyWaitTakesTheLowestKey := by
  refine fun x s => ⟨decode_encode (.ldKey x), fun k hk hpressed hlower => ?_, fun hnone => ?_⟩
  · have hlowest : s.lowestKey = some k := s.lowestKey_eq_some.2 ⟨hk, hpressed, hlower⟩
    have hbyte : (BitVec.ofNat 8 k).toNat = k := (BitVec.toNat_ofNat k 8).trans (Nat.mod_eq_of_lt (by omega))
    exact completes_setReg (exec_ldKey_of_some x hlowest) fun _ h => h ▸ hbyte
  · have hlowest : s.lowestKey = none := s.lowestKey_eq_none.2 hnone
    exact ⟨⟨_, exec_ldKey_of_none x hlowest, frame_setPc s _, rfl⟩, fun hfetch => step_of_ldKey_of_none x hfetch hlowest⟩

end Sys2Proof.Machine

/-! ### Exceptions

The report of an unknown word, and the step after it that shows it no longer (60_exceptions.md R222). Then the delay timer: the
shared operations leave it alone, one instruction writes it, and the end of the step decrements it (R230). -/

namespace Sys2Proof.Machine

section ReportAndTimer

variable (s : State)

@[simp] theorem State.storeBlock_unknown (n : Nat) : (s.storeBlock n).unknown = s.unknown := by rw [State.storeBlock_eq]
@[simp] theorem State.drawRows_unknown (ox oy n : Nat) : (s.drawRows ox oy n).unknown = s.unknown := by
  rw [State.drawRows_eq]

@[simp] theorem State.skipIf_DT (c : Bool) : (s.skipIf c).DT = s.DT := by rw [State.skipIf_eq, State.setPc_DT]
@[simp] theorem State.callTo_DT (a : Word) : (s.callTo a).DT = s.DT := by unfold State.callTo; split <;> rfl
@[simp] theorem State.returnFromCall_DT : s.returnFromCall.DT = s.DT := by unfold State.returnFromCall; split <;> rfl
@[simp] theorem State.storeBcd_DT (v : Byte) : (s.storeBcd v).DT = s.DT := rfl
@[simp] theorem State.storeBlock_DT (n : Nat) : (s.storeBlock n).DT = s.DT := by rw [State.storeBlock_eq]
@[simp] theorem State.loadBlock_DT (n : Nat) : (s.loadBlock n).DT = s.DT := by rw [State.loadBlock_eq]
@[simp] theorem State.drawRows_DT (ox oy n : Nat) : (s.drawRows ox oy n).DT = s.DT := by rw [State.drawRows_eq]
@[simp] theorem State.storeRandom_DT (x : Nibble) (kk r : Byte) : (s.storeRandom x kk r).DT = s.DT := rfl

@[simp] theorem State.retire_I (w : Word) : (s.retire w).I = s.I := by
  unfold State.retire; split <;> simp [State.timerPhase_eq]
@[simp] theorem State.retire_fault (w : Word) : (s.retire w).fault = s.fault := by
  unfold State.retire; split <;> simp [State.timerPhase_eq]
@[simp] theorem State.retire_draws (w : Word) : (s.retire w).draws = s.draws := by
  unfold State.retire; split <;> simp [State.timerPhase_eq]

/-- In EXTERNAL_TICK mode the end of a step leaves DT to the host's ticks (60_exceptions.md R231). -/
theorem State.retire_DT_of_externalTick (w : Word) (hmode : s.config.timerMode = .externalTick) :
    (s.retire w).DT = s.DT := by
  unfold State.retire; split <;> simp [State.timerPhase_eq, hmode]

/-- DT after the end of a step without a fault, in both timer modes (R230, R231). -/
theorem State.toNat_DT_retire (w : Word) (hf : s.fault = none) :
    (s.retire w).DT.toNat = if s.config.timerMode = .coupled then s.DT.toNat - 1 else s.DT.toNat := by
  cases hmode : s.config.timerMode with
  | coupled => exact State.toNat_DT_retire_coupled w hf hmode
  | externalTick => exact congrArg BitVec.toNat (s.retire_DT_of_externalTick w hmode)

end ReportAndTimer

variable {s t : State} {i : Instr}

/-! #### The report of an unknown word -/

/-- No instruction writes the `unknown` port, a faulting one included. -/
theorem exec_keeps_unknown (h : exec i s = .next t) : t.unknown = s.unknown := by
  obtain ⟨-, -, -, hunknown⟩ | ⟨c, rfl⟩ | ⟨v, rfl⟩ | ⟨n, rfl⟩ | rfl | ⟨ox, oy, n, rfl⟩ := exec_cases h
  · exact hunknown
  · rfl
  · rfl
  · exact s.storeBlock_unknown n
  · rfl
  · exact State.drawRows_unknown _ ox oy n

/-- The step of a word that decodes shows no report: the advance clears the port, and nothing after it writes the port. -/
theorem unknown_of_step_instr (hf : s.fault = none) (hd : decode s.fetchWord = .instr i) (h : step s = .next t) :
    t.unknown = none := by
  rw [step_of_instr s hf hd] at h
  obtain ⟨u, hu, rfl⟩ := finish_eq_next h
  rw [State.retire_unknown, exec_keeps_unknown hu, State.advance_unknown]

/-- Settles O8: the step ends on the advanced state with the report in the port, and the end of a step writes the opcode latch
and DT alone. -/
theorem unknownOpcodeIsReported : Obligations.UnknownOpcodeIsReported := by
  intro s why hf hd
  have hrf : (s.advance.reportUnknown s.fetchWord s.pc).fault = none := hf
  have htf := (State.retire_fault _ s.fetchWord).trans hrf
  have hopcode := congrArg State.opcode (State.retire_eq _ s.fetchWord hrf)
  have hDT := State.toNat_DT_retire _ s.fetchWord hrf
  exact ⟨_, step_of_unknown s hf hd, State.retire_unknown _ _, htf, hopcode, State.retire_pc _ _,
    fun r => State.reg_retire _ r _, State.retire_I _ _, State.retire_SP _ _, State.retire_stack _ _,
    fun a => State.memRead_retire _ a _, State.retire_video _ _, State.retire_keys _ _, State.retire_config _ _,
    State.retire_draws _ _, hDT, fun _ _ => unknown_of_step_instr htf⟩

/-! #### The delay timer -/

/-- R28, for execute: no instruction but the transfer to DT writes the delay timer (44_keypad_timer_io.md R204). -/
theorem exec_keeps_DT (h : exec i s = .next t) (hi : ∀ x, i ≠ .ldDT x) : t.DT = s.DT := by
  cases i with
  | ldDT x => exact absurd rfl (hi x)
  | skp x | sknp x | ldF x | ldKey x =>
    -- two outcomes each: a digit out of range faults, a wait without a key goes back to its own address
    simp only [exec, execSkp, execSknp, execLdF, execLdKey] at h
    split at h <;> obtain rfl := Host.Outcome.next.inj h <;> simp
  | _ =>
    -- by definition an operation that does not touch DT
    obtain rfl := Host.Outcome.next.inj h
    simp

/-- Settles O21: the end of the step decrements what execute left in DT, the register's value after the transfer and the old
value after anything else. -/
theorem coupledStepDecrementsTheDelayTimer : Obligations.CoupledStepDecrementsTheDelayTimer := by
  intro s t hf hmode h htf
  obtain ⟨hnf, -⟩ | ⟨-, i, u, hd, hu, rfl⟩ | ⟨-, ⟨why, hd⟩, rfl⟩ := step_cases h
  · exact absurd hf hnf
  · have ⟨_, hconfig⟩ := exec_keeps_keys_and_config hu
    have hend := State.toNat_DT_retire_coupled s.fetchWord ((u.retire_fault _).symm.trans htf) (hconfig ▸ hmode)
    refine ⟨fun x hx => ?_, fun hno => ?_⟩
    · obtain rfl := Decoded.instr.inj (hd.symm.trans hx)
      obtain rfl := Host.Outcome.next.inj hu
      exact hend
    · rw [hend, exec_keeps_DT hu fun x hi => hno x (hi ▸ hd), State.advance_DT]
  · refine ⟨fun x hx => ?_, fun _ => State.toNat_DT_retire_coupled _ hf hmode⟩
    rw [hd] at hx; cases hx

end Sys2Proof.Machine

/-! ### Reset

What a byte reads as right after reset and after the copy of the ROM, and then what `boot` leaves (70_reset_and_hazards.md
R260). -/

namespace Sys2Proof.Machine

/-- The reset content holds glyph byte `j` at `FONT_BASE + j` (R260, R262). -/
theorem resetByte_of_font {font : Fontset} {a j : Nat} (hj : j < fontSize) (ha : a = fontBase + j) :
    resetByte font a = font[j] := by
  subst ha
  have hrange : fontBase ≤ fontBase + j ∧ fontBase + j < fontBase + fontSize := by omega
  simp only [resetByte, dif_pos hrange, Nat.add_sub_cancel_left]

/-- The reset content is 0 at every address that holds no glyph byte (R260). -/
theorem resetByte_of_not_font {font : Fontset} {a : Nat} (ha : ∀ j, j < fontSize → a ≠ fontBase + j) :
    resetByte font a = 0 :=
  dif_neg fun ⟨hlo, hhi⟩ => ha (a - fontBase) (by omega) (by omega)

section LoadedRom

variable {s : State} {rom : List Byte} {p : Word}

/-- A copied ROM reads as its own bytes from `PROG_BASE` on (R260). -/
theorem State.memRead_loadRom_of_rom {j : Nat} (hj : j < rom.length) (hp : portAddr p = progBase + j) :
    (s.loadRom rom).memRead p = rom[j] := by
  have hin : progBase ≤ portAddr p ∧ portAddr p < progBase + rom.length := by omega
  calc (s.loadRom rom).memRead p
    _ = rom.getD (portAddr p - progBase) 0 := (Memory.read_writeBytes _ rom _ _ _).trans (if_pos hin)
    _ = rom.getD j 0 := by rw [hp, Nat.add_sub_cancel_left]
    _ = rom[j] := (List.getElem_eq_getD 0).symm

/-- The copy of a ROM leaves every other byte alone (20_memory.md R66). -/
theorem State.memRead_loadRom_of_not_rom (hp : ∀ j, j < rom.length → portAddr p ≠ progBase + j) :
    (s.loadRom rom).memRead p = s.memRead p := by
  have hout : ¬ (progBase ≤ portAddr p ∧ portAddr p < progBase + rom.length) :=
    fun ⟨hlo, hhi⟩ => hp (portAddr p - progBase) (by omega) (by omega)
  exact (Memory.read_writeBytes _ rom _ _ _).trans (if_neg hout)

end LoadedRom

/-- Settles O16: `boot` is the reset state with the ROM copied; the font lies below the ROM, and what is neither reads as 0. -/
theorem bootEstablishesTheResetState : Obligations.BootEstablishesTheResetState := by
  intro s rom hfits
  refine ⟨_, bootWith_of_fits s.config s.draws hfits, rfl, rfl, rfl, rfl, rfl, rfl, rfl, rfl,
    State.resetWith_reg s.config s.draws, State.resetWith_stack s.config s.draws,
    fun _ _ _ _ => rfl, fun _ _ => BitVec.getLsbD_zero, ?_, ?_, ?_⟩
  · intro j hj p hp
    have hbelow : ∀ i, i < rom.length → portAddr p ≠ progBase + i := fun i _ hi => by
      have : 0x050 + j = 0x200 + i := hp.symm.trans hi
      omega
    rw [State.memRead_loadRom_of_not_rom hbelow, State.resetWith_memRead]
    exact resetByte_of_font hj hp
  · exact fun _ hj _ hp => State.memRead_loadRom_of_rom hj hp
  · intro p hfont hrom
    rw [State.memRead_loadRom_of_not_rom hrom, State.resetWith_memRead]
    exact resetByte_of_not_font hfont

end Sys2Proof.Machine

/-! ### Faults

The event table, as a relation, and what a step makes of it: it latches a fault exactly when its instruction raises one there,
and a fault is precise (60_exceptions.md R221, R223, R224). -/

namespace Sys2Proof.Machine

/-- The event table of R221: at the start of execute in `s` the instruction raises the fault. -/
inductive Raises (s : State) : Instr → FaultCode → Prop
  | call (nnn : Addr) (h : s.SP.val = 16) : Raises s (.call nnn) .stackOverflow
  | ret (h : s.SP.val = 0) : Raises s .ret .stackUnderflow
  | ldF (x : Nibble) (h : (s.reg x).toNat > 15) : Raises s (.ldF x) .fontDigitRange
  | skp (x : Nibble) (h : (s.reg x).toNat > 15) : Raises s (.skp x) .keyIndexRange
  | sknp (x : Nibble) (h : (s.reg x).toNat > 15) : Raises s (.sknp x) .keyIndexRange

variable {s t : State} {i : Instr} {c : FaultCode}

/-- The table's conditions speak of SP and the registers alone, so the advance of `pc` changes none. -/
theorem raises_advance : Raises s.advance i c ↔ Raises s i c := by
  constructor
  · intro h; cases h <;> constructor <;> assumption
  · intro h; cases h <;> constructor <;> assumption

/-- "Each instruction has at most one fault condition" (R224), and the table gives it one code. -/
theorem Raises.unique {c' : FaultCode} (h : Raises s i c) (h' : Raises s i c') : c = c' := by
  cases h <;> cases h' <;> rfl

@[simp] theorem State.storeBcd_fault (s : State) (v : Byte) : (s.storeBcd v).fault = s.fault := rfl

/-- What an instruction can do to the fault latch: leave it, where the table has no fault of it, or take the table's fault. -/
theorem exec_fault_cases (h : exec i s = .next t) :
    (t.fault = s.fault ∧ ∀ c, ¬ Raises s i c) ∨ ∃ c, Raises s i c ∧ t = s.raiseFault c := by
  cases i with
  | call nnn =>
    obtain rfl := Host.Outcome.next.inj h
    by_cases hsp : s.SP.val = 16
    · exact .inr ⟨_, .call nnn hsp, State.callTo_full _ _ hsp⟩
    · refine .inl ⟨?_, by rintro _ ⟨⟩; contradiction⟩
      rw [State.callTo_of_lt _ _ (by omega)]
  | ret =>
    obtain rfl := Host.Outcome.next.inj h
    by_cases hsp : s.SP.val = 0
    · exact .inr ⟨_, .ret hsp, State.returnFromCall_empty _ hsp⟩
    · refine .inl ⟨?_, by rintro _ ⟨⟩; contradiction⟩
      rw [State.returnFromCall_of_pos _ (by omega)]
  | skp x | sknp x | ldF x =>
    -- a digit in range, or the fault of one that is not
    simp only [exec, execSkp, execSknp, execLdF, digitInRange_iff] at h
    split at h <;> obtain rfl := Host.Outcome.next.inj h
    · exact .inl ⟨by simp, by rintro _ ⟨⟩; omega⟩
    · exact .inr ⟨_, by constructor; omega, rfl⟩
  | ldKey x =>
    simp only [exec, execLdKey] at h
    split at h <;> obtain rfl := Host.Outcome.next.inj h <;> exact .inl ⟨by simp, nofun⟩
  | _ =>
    -- not in the table, and by definition an operation that does not touch the latch
    obtain rfl := Host.Outcome.next.inj h
    exact .inl ⟨by simp, nofun⟩

/-- A step of a running core ends without a fault, where the table has none of its instruction, or it takes the table's fault:
then it leaves the state of before the step with the code and the fetch address latched, and no report (R223). -/
theorem step_fault_cases (hf : s.fault = none) (h : step s = .next t) :
    (t.fault = none ∧ ∀ i c, decode s.fetchWord = .instr i → ¬ Raises s i c) ∨
    ∃ i c, decode s.fetchWord = .instr i ∧ Raises s i c ∧
      t = { s with fault := some { code := c, addr := s.pc }, unknown := none } := by
  obtain ⟨hnf, -⟩ | ⟨-, i, u, hd, hu, rfl⟩ | ⟨-, ⟨why, hd⟩, rfl⟩ := step_cases h
  · exact absurd hf hnf
  · obtain ⟨hfault, hno⟩ | ⟨c, hc, rfl⟩ := exec_fault_cases hu
    · refine .inl ⟨by rw [State.retire_fault, hfault, State.advance_fault, hf], fun j c hj hc => ?_⟩
      obtain rfl := Decoded.instr.inj (hd.symm.trans hj)
      exact hno c (raises_advance.2 hc)
    · refine .inr ⟨i, c, hd, raises_advance.1 hc, ?_⟩
      rw [State.retire_of_fault _ _ (by simp), State.raiseFault_advance]
  · exact .inl ⟨by simp [hf], fun i c hi => by rw [hd] at hi; cases hi⟩

/-- A step of a running core latches a code exactly when the table gives it for the instruction fetched. -/
theorem step_latches_iff (hf : s.fault = none) (h : step s = .next t) :
    t.fault.map (·.code) = some c ↔ ∃ i, decode s.fetchWord = .instr i ∧ Raises s i c := by
  obtain ⟨hnone, hno⟩ | ⟨i, c', hd, hc, rfl⟩ := step_fault_cases hf h
  · simpa [hnone] using fun i hi => hno i c hi
  · constructor
    · intro hlatch
      obtain rfl : c' = c := Option.some.inj hlatch
      exact ⟨i, hd, hc⟩
    · rintro ⟨j, hj, hc'⟩
      obtain rfl := Decoded.instr.inj (hd.symm.trans hj)
      exact congrArg some (hc.unique hc')

/-- Settles O10: of the two ways a running core's step can go, the one that latches a fault leaves this state. -/
theorem faultEntryIsPrecise : Obligations.FaultEntryIsPrecise := by
  intro s t f hf h htf
  obtain ⟨hnone, -⟩ | ⟨i, c, -, -, rfl⟩ := step_fault_cases hf h
  · rw [hnone] at htf; cases htf
  · obtain rfl := Option.some.inj htf
    exact ⟨rfl, rfl⟩

/-- Settles O11: the codes that a step latches are the event table's, and the table has these rows for each code. -/
theorem faultsHaveExactlyFourCauses : Obligations.FaultsHaveExactlyFourCauses := by
  intro s t hf h
  simp only [step_latches_iff hf h]
  refine ⟨⟨?_, ?_⟩, ⟨?_, ?_⟩, ⟨?_, ?_⟩, ⟨?_, ?_⟩⟩
  · rintro ⟨_, hd, hc⟩; cases hc with | call nnn hsp => exact ⟨⟨nnn, hd⟩, hsp⟩
  · rintro ⟨⟨nnn, hd⟩, hsp⟩; exact ⟨_, hd, .call nnn hsp⟩
  · rintro ⟨_, hd, hc⟩; cases hc with | ret hsp => exact ⟨hd, hsp⟩
  · rintro ⟨hd, hsp⟩; exact ⟨_, hd, .ret hsp⟩
  · rintro ⟨_, hd, hc⟩; cases hc with | ldF x hx => exact ⟨x, hd, hx⟩
  · rintro ⟨x, hd, hx⟩; exact ⟨_, hd, .ldF x hx⟩
  · rintro ⟨_, hd, hc⟩
    cases hc with
    | skp x hx => exact ⟨x, .inl hd, hx⟩
    | sknp x hx => exact ⟨x, .inr hd, hx⟩
  · rintro ⟨x, hd | hd, hx⟩
    · exact ⟨_, hd, .skp x hx⟩
    · exact ⟨_, hd, .sknp x hx⟩

end Sys2Proof.Machine

/-! ### Who writes I and the delay timer

The shared operations leave I alone, three instructions write it (10_state.md R25, D21). In EXTERNAL_TICK mode the end of a step
leaves DT alone, so what execute makes of it stands (60_exceptions.md R231). -/

namespace Sys2Proof.Machine

section IndexRegister

variable (s : State)

@[simp] theorem State.skipIf_I (c : Bool) : (s.skipIf c).I = s.I := by rw [State.skipIf_eq, State.setPc_I]
@[simp] theorem State.callTo_I (a : Word) : (s.callTo a).I = s.I := by unfold State.callTo; split <;> rfl
@[simp] theorem State.returnFromCall_I : s.returnFromCall.I = s.I := by unfold State.returnFromCall; split <;> rfl
@[simp] theorem State.storeBcd_I (v : Byte) : (s.storeBcd v).I = s.I := rfl
@[simp] theorem State.storeBlock_I (n : Nat) : (s.storeBlock n).I = s.I := by rw [State.storeBlock_eq]
@[simp] theorem State.loadBlock_I (n : Nat) : (s.loadBlock n).I = s.I := by rw [State.loadBlock_eq]
@[simp] theorem State.drawRows_I (ox oy n : Nat) : (s.drawRows ox oy n).I = s.I := by rw [State.drawRows_eq]
@[simp] theorem State.storeRandom_I (x : Nibble) (kk r : Byte) : (s.storeRandom x kk r).I = s.I := rfl

end IndexRegister

variable {s t : State} {i : Instr}

/-- R25, for execute: an instruction leaves I alone, or it is one of the three that write it. -/
theorem exec_I_cases (h : exec i s = .next t) :
    t.I = s.I ∨ (∃ nnn, i = .ldI nnn) ∨ (∃ x, i = .addI x) ∨ ∃ x, i = .ldF x := by
  cases i with
  | ldI nnn => exact .inr (.inl ⟨nnn, rfl⟩)
  | addI x => exact .inr (.inr (.inl ⟨x, rfl⟩))
  | ldF x => exact .inr (.inr (.inr ⟨x, rfl⟩))
  | skp x | sknp x | ldKey x =>
    -- two outcomes each: a digit out of range faults, a wait without a key goes back to its own address
    simp only [exec, execSkp, execSknp, execLdKey] at h
    split at h <;> obtain rfl := Host.Outcome.next.inj h <;> exact .inl (by simp)
  | _ =>
    -- by definition an operation that does not touch I
    obtain rfl := Host.Outcome.next.inj h
    exact .inl (by simp)

/-- Settles O24: of the parts of a step, execute alone writes I, and in it the three instructions alone. -/
theorem onlyThreeInstructionsWriteI : Obligations.OnlyThreeInstructionsWriteI := by
  intro s t h hne
  obtain ⟨-, rfl⟩ | ⟨-, i, u, hd, hu, rfl⟩ | ⟨-, -, rfl⟩ := step_cases h
  · exact absurd rfl hne
  · rw [State.retire_I] at hne
    obtain hsame | ⟨nnn, rfl⟩ | ⟨x, rfl⟩ | ⟨x, rfl⟩ := exec_I_cases hu
    · exact absurd hsame hne
    · exact .inl ⟨nnn, hd⟩
    · exact .inr (.inl ⟨x, hd⟩)
    · exact .inr (.inr ⟨x, hd⟩)
  · exact absurd (by simp) hne

/-- Settles O22: the end of the step leaves DT alone, so it is the register's value after the transfer and the old value after
anything else, a fault and an unknown word included. -/
theorem externalTickStepKeepsTheDelayTimer : Obligations.ExternalTickStepKeepsTheDelayTimer := by
  intro s t hf hmode h
  obtain ⟨hnf, -⟩ | ⟨-, i, u, hd, hu, rfl⟩ | ⟨-, ⟨why, hd⟩, rfl⟩ := step_cases h
  · exact absurd hf hnf
  · obtain ⟨-, hconfig⟩ := exec_keeps_keys_and_config hu
    rw [State.retire_DT_of_externalTick u _ (hconfig ▸ hmode)]
    refine ⟨fun x hx => ?_, fun hno => ?_⟩
    · obtain rfl := Decoded.instr.inj (hd.symm.trans hx)
      obtain rfl := Host.Outcome.next.inj hu
      rfl
    · rw [exec_keeps_DT hu fun x hi => hno x (hi ▸ hd), State.advance_DT]
  · refine ⟨fun x hx => ?_, fun _ => State.retire_DT_of_externalTick _ _ hmode⟩
    rw [hd] at hx; cases hx

end Sys2Proof.Machine

/-! ### The video port

The rows of `video_out` one under another: how many entries they have, and which entry a cell is (43_display.md R184, D23). -/

namespace Sys2Proof.Machine

section VideoPort

variable (s : State)

/-- The first `n` rows of `video_out`. -/
def State.videoRows (n : Nat) : List Nat :=
  (List.range n).flatMap fun y => (List.range s.config.W).map (s.videoCell · y)

theorem State.videoOut_eq_videoRows : s.videoOut = s.videoRows s.config.H := rfl

theorem State.videoRows_succ (n : Nat) :
    s.videoRows (n + 1) = s.videoRows n ++ (List.range s.config.W).map (s.videoCell · n) := by
  simp [State.videoRows, List.range_succ]

theorem State.length_videoRows (n : Nat) : (s.videoRows n).length = s.config.W * n := by
  induction n with
  | zero => rfl
  | succ n ih => simp [State.videoRows_succ, ih, Nat.mul_succ]

/-- The cells lie in row-major order: each row follows the entries of the rows above it. -/
theorem State.getElem?_videoRows {n x y : Nat} (hx : x < s.config.W) (hy : y < n) :
    (s.videoRows n)[cellIndex s.config.W x y]? = some (s.videoCell x y) := by
  induction n with
  | zero => exact absurd hy (Nat.not_lt_zero y)
  | succ n ih =>
    rw [State.videoRows_succ]
    obtain hlt | rfl := Nat.lt_succ_iff_lt_or_eq.1 hy
    · have hin : cellIndex s.config.W x y < (s.videoRows n).length := s.length_videoRows n ▸ cellIndex_lt hx hlt
      rw [List.getElem?_append_left hin, ih hlt]
    · have hlast : cellIndex s.config.W x y = (s.videoRows y).length + x := by
        rw [s.length_videoRows, cellIndex, Nat.mul_comm]
      rw [hlast, List.getElem?_append_right (Nat.le_add_right _ _), Nat.add_sub_cancel_left]
      simp [hx]

end VideoPort

/-- Settles O51: `video_out` is all the rows, and each entry of them is its cell's. -/
theorem videoPortShowsTheCells : Obligations.VideoPortShowsTheCells :=
  fun s => ⟨s.length_videoRows s.config.H, rfl, fun _ _ hx hy => s.getElem?_videoRows hx hy⟩

end Sys2Proof.Machine

/-! ### The host's actions

What each of them does to a running, a faulted and a core that is not started, and the invariant over any sequence of them
(10_state.md R41; 60_exceptions.md R225, R231; 70_reset_and_hazards.md R260, R263). -/

namespace Sys2Proof.Machine

variable {s t : State} {c : Config} {d : Nat} {rom : List Byte} {core : HostedCore} {a : HostAction}

/-! #### The keypad and the delay timer -/

/-- Settles O20: the keypad is the vector of levels itself. -/
theorem setKeysReplacesTheKeypad : Obligations.SetKeysReplacesTheKeypad :=
  fun s k => ⟨s.setKeypad k, rfl, fun _ _ => rfl, rfl⟩

theorem State.tick_of_running (hmode : s.config.timerMode = .externalTick) (hf : s.fault = none) :
    s.tick = .next s.decrementDT := by
  simp [State.tick, hmode, hf]

theorem State.tick_of_fault (hmode : s.config.timerMode = .externalTick) (hf : s.fault ≠ none) : s.tick = .next s := by
  simp [State.tick, hmode, Option.isSome_iff_ne_none.2 hf]

theorem State.tick_of_coupled (hmode : s.config.timerMode = .coupled) : s.tick = .refused .tickAbsent := by
  simp [State.tick, hmode]

/-- The decrement as a number: "DT stops at 0 and never wraps" (R230, R231). -/
theorem toNat_decrement (b : Byte) : (if b ≠ 0 then b - 1 else b).toNat = b.toNat - 1 := by
  split <;> bv_omega

/-- Settles O19: a tick of a running core is the decrement, which writes DT alone. -/
theorem tickDecrementsTheDelayTimer : Obligations.TickDecrementsTheDelayTimer :=
  fun s => ⟨fun hmode hf => ⟨_, (State.tick_of_running hmode hf).trans (congrArg _ s.decrementDT_eq), toNat_decrement s.DT⟩,
    State.tick_of_coupled⟩

/-! #### The invariant -/

/-- The reset state of a configuration in range meets the invariant: nothing listed, nothing lit, nothing latched. -/
theorem State.inv_resetWith (hc : c.wf) (d : Nat) : (State.resetWith c d).Inv :=
  .of_no_fault hc ⟨.nil, nofun⟩ ⟨.nil, nofun⟩ rfl

/-- Settles O15: the default configuration is in range. -/
theorem resetMeetsInvariant : Obligations.ResetMeetsInvariant := State.inv_resetWith (by decide) 0

/-- A `boot` that answers a state answers one of the invariant: a ROM that fits ends inside the memory. -/
theorem inv_of_bootWith (hc : c.wf) (h : bootWith c d rom = .next t) : t.Inv := by
  by_cases hfits : romFits rom
  · rw [bootWith_of_fits c d hfits] at h
    obtain rfl := Host.Outcome.next.inj h
    obtain ⟨-, hm, hv, -⟩ := State.inv_resetWith hc d
    exact .of_no_fault hc (Memory.wf_writeBytes rom hm (Nat.add_le_of_le_sub' (by decide) hfits)) hv rfl
  · rw [bootWith_of_oversized c d hfits] at h
    cases h

/-- A tick keeps the invariant: it writes DT at most. -/
theorem inv_of_tick (hs : s.Inv) (h : s.tick = .next t) : t.Inv := by
  unfold State.tick at h
  split at h
  · obtain rfl := Host.Outcome.next.inj h
    split
    · exact hs
    · rw [State.decrementDT_eq]; exact hs
  · cases h

theorem HostedCore.Inv.config_wf (h : core.Inv) : core.config.wf := by
  cases core with
  | notStarted c d => exact h
  | started s => exact h.1

/-- Every state that a host action answers meets the invariant. -/
theorem HostedCore.Inv.perform (hcore : core.Inv) (h : core.perform a = .next t) : t.Inv := by
  cases a with
  | boot rom => exact inv_of_bootWith hcore.config_wf (core.perform_boot rom ▸ h)
  | step =>
    cases core with
    | notStarted c d => cases h
    | started s => exact stepKeepsInvariant s t hcore h
  | tick =>
    cases core with
    | notStarted c d => cases h
    | started s => exact inv_of_tick hcore h
  | setKeys k =>
    cases core with
    | notStarted c d => cases h
    | started s =>
      obtain rfl := Host.Outcome.next.inj h
      exact hcore

/-- A refused action leaves the core as it was or, where it was a `boot`, without a state. -/
theorem HostedCore.Inv.afterRefusal (hcore : core.Inv) (a : HostAction) : (core.afterRefusal a).Inv := by
  cases a with
  | boot rom => exact hcore.config_wf
  | _ => exact hcore

theorem HostedCore.Inv.after (hcore : core.Inv) (a : HostAction) : (core.after a).Inv := by
  cases h : core.perform a with
  | next t =>
    rw [HostedCore.after_of_next h]
    exact hcore.perform h
  | fault f => cases f
  | refused r =>
    rw [HostedCore.after_of_refused h]
    exact hcore.afterRefusal a

/-- Settles O14: every action keeps the invariant, so every sequence of them does. -/
theorem hostActionsKeepInvariant : Obligations.HostActionsKeepInvariant := by
  intro as
  induction as with
  | nil => exact fun _ hcore => hcore
  | cons a as ih => exact fun core hcore => ih (core.after a) (hcore.after a)

/-! #### `boot` -/

theorem HostedCore.perform_boot_of_oversized (core : HostedCore) (h : rom.length > 3584) :
    core.perform (.boot rom) = .refused .romTooLarge :=
  (core.perform_boot rom).trans (bootWith_of_oversized _ _ (Nat.not_le_of_gt h))

theorem HostedCore.after_boot_of_oversized (core : HostedCore) (h : rom.length > 3584) :
    core.after (.boot rom) = .notStarted core.config core.draws :=
  HostedCore.after_of_refused (core.perform_boot_of_oversized h)

/-- Settles O17: `boot` answers the same of a state and of a core, and its refusal leaves no core state. -/
theorem bootRefusesAnOversizedRom : Obligations.BootRefusesAnOversizedRom := fun _ h =>
  ⟨fun _ => bootWith_of_oversized _ _ (Nat.not_le_of_gt h),
    fun core => ⟨core.perform_boot_of_oversized h, core.after_boot_of_oversized h⟩⟩

/-- Settles O18: `boot` reads the configuration and the draw count alone, and an empty ROM copies nothing. -/
theorem resetIsBootOfAnEmptyRom : Obligations.ResetIsBootOfAnEmptyRom := fun s hc hd =>
  calc s.boot []
    _ = State.reset.boot [] := State.boot_congr hc hd []
    _ = .next (State.reset.loadRom []) := bootWith_of_fits _ _ (Nat.zero_le _)

/-- Settles O12: the latch bars `step` and `tick` alone, and `boot` replaces the whole state. -/
theorem faultedCoreIsHalted : Obligations.FaultedCoreIsHalted := fun s hf =>
  ⟨step_of_fault s hf, fun hmode => State.tick_of_fault hmode hf, fun _ => rfl,
    fun _ hfits => ⟨_, bootWith_of_fits _ _ hfits, rfl⟩⟩

/-! #### The core that is not started -/

/-- Without a core state, an action that is no `boot` of a ROM that fits leaves none. -/
theorem after_notStarted (h : ∀ rom, a = .boot rom → rom.length > 3584) :
    (HostedCore.notStarted c d).after a = .notStarted c d := by
  cases a with
  | boot rom => exact HostedCore.after_boot_of_oversized _ (h rom rfl)
  | _ => rfl

/-- Nor does any sequence of such actions start the core (R263). -/
theorem performAll_notStarted {as : List HostAction} (h : ∀ rom, .boot rom ∈ as → rom.length > 3584) :
    performAll as (.notStarted c d) = .notStarted c d := by
  induction as with
  | nil => rfl
  | cons a as ih =>
    rw [performAll_cons, after_notStarted fun rom ha => h rom (ha ▸ List.mem_cons_self)]
    exact ih fun rom hmem => h rom (List.mem_cons_of_mem a hmem)

/-- Settles O58: what came before has left no core state; a `boot` that fits answers one, and the `step` after it is its step. -/
theorem noStepUntilABootSucceeds : Obligations.NoStepUntilABootSucceeds := by
  intro c d as has core
  have hcore : core = .notStarted c d := performAll_notStarted has
  refine ⟨hcore, by rw [hcore]; exact ⟨rfl, rfl, fun _ => rfl⟩, ?_⟩
  rintro rom hfits s rfl rfl
  obtain ⟨t, hboot⟩ : ∃ t, s.boot rom = .next t := ⟨_, bootWith_of_fits _ _ hfits⟩
  obtain ⟨u, hu⟩ := everyStepAnswersANextState.2 t
  have hstarted : core.after (.boot rom) = .started t := by rw [hcore]; exact HostedCore.after_of_next hboot
  refine ⟨t, hboot, (performAll_append _ _ _).trans hstarted, rfl, u, hu, ?_⟩
  calc performAll (as ++ [.boot rom, .step]) (.notStarted s.config s.draws)
    _ = (core.after (.boot rom)).after .step := performAll_append _ _ _
    _ = .started u := by rw [hstarted]; exact HostedCore.after_of_next hu

end Sys2Proof.Machine

/-! ### Words of the test vectors -/

namespace Sys2Proof

/-- Settles O5: each word is put through the decoder. -/
theorem specWordsDecode : Obligations.SpecWordsDecode := by
  unfold Obligations.SpecWordsDecode; decide

end Sys2Proof
